-- ==== Sys2Proof/Word.lean ====
section
/-! DEFINITION. The word types of CK16FC. Every value is unsigned (`00_scope.md` rule R10); the port moves whole
32-bit words and single bytes (`20_memory.md` rule R53), and the checksum register is 16 bits (`10_state.md` rule R31). -/

namespace Sys2Proof

/-- A block register as the port moves it: 32 bits, bit 0 least significant (R11). -/
abbrev Word := BitVec 32

/-- The `u16` of the source's signatures: the checksum register and the 16-bit fields of a frame. -/
abbrev Half := BitVec 16

/-- One byte of a frame or a buffer. -/
abbrev Byte := BitVec 8

end Sys2Proof
end

