-- ==== Sys2Proof/Config.lean ====
section
/-! DEFINITION. What this implementation fixes (`00_scope.md` rule R9). The spec leaves no value open that a rule of the
block reads, so there is no free value here. BASE, FAIL_THRESHOLD and PACE_INTERVAL are arguments where they occur
(`Machine/Port.lean`, `Machine/HostContext.lean`). -/

namespace Sys2Proof.Config

/-- TXF holds one request frame: REQ_LEN = 10 bytes (R7, R35). -/
abbrev txfSize : Nat := 10

/-- RXB holds the longest response, RSP_MAX = 255 + 7 bytes (R8, R36). -/
abbrev rxbSize : Nat := 262

/-- PAY holds the longest payload, PAY_MAX = 255 bytes (R8, R37). -/
abbrev paySize : Nat := 255

/-- The register window is 0x400 bytes from BASE (R54). -/
abbrev windowSize : Nat := 0x400

/-- The registers of the window end before this offset; 0x02C to 0x03F is unmapped (R54). -/
abbrev registersEnd : Nat := 0x02C

/-- DP_MAX, the largest `decimal_places` (R9, R162). -/
abbrev dpMax : Nat := 9

end Sys2Proof.Config
end

