-- ==== Sys2Proof/Syntax.lean ====
section
/-! DEFINITION. The ten commands of `30_encoding.md` rule R84, and what a host can do to the port: the bus accesses of
rule R94 and the port transactions of `20_memory.md` rule R53 they stand for. -/

namespace Sys2Proof

/-- One constructor per row of the command map (R84). A command word carries no operand: operands are read from
A0..A2 (R80, R83). -/
inductive Instr
  | nop | cksum | build | parse | be16 | scale | dword | kwh | ldw | rst
  deriving DecidableEq, Repr

/-- Why a word is no command; both are the command fault ILLCMD (R82, R85). -/
inductive Illegal
  /-- a non-zero bit in 31:4 -/
  | upperBits
  /-- OP 9 to 14 -/
  | reservedOp
  deriving DecidableEq, Repr

/-- The registers the port reaches by name (R54). -/
inductive RegName
  | cmd | status | a0 | a1 | a2 | r0 | r1 | crc | rxlen | plen | diag
  deriving DecidableEq, Repr

/-- The three byte buffers (R50). -/
inductive Buf
  | txf | rxb | pay
  deriving DecidableEq, Repr

/-- A bus access to the block, by its offset from BASE: the (kind, offset, data) of R94, the reset input, and the
16-bit accesses, which the port does not offer (R53). -/
inductive Access
  | r8 (offset : Nat)
  | r16 (offset : Nat)
  | r32 (offset : Nat)
  | w8 (offset : Nat) (data : Byte)
  | w16 (offset : Nat) (data : Half)
  | w32 (offset : Nat) (data : Word)
  | reset
  deriving DecidableEq, Repr

/-- The five kinds of port transaction (R53), and the harmless access to an unmapped offset (R59). -/
inductive Transaction
  | regRead (r : RegName)
  | regWrite (r : RegName) (w : Word)
  | bufRead (b : Buf) (i : Nat)
  | bufWrite (b : Buf) (i : Nat) (v : Byte)
  | reset
  | unmapped (a : Access)
  deriving DecidableEq, Repr

end Sys2Proof
end

