-- ==== Sys2Proof/WellFormed.lean ====
section
/-! DEFINITION. Which accesses are transactions of the port, said from the prose of `20_memory.md` rules R53, R59 and
R64 and not from the decoder; and which transactions name something that exists. A command has no operand fields, so
every command is well formed. -/

namespace Sys2Proof

/-- Bytes in a buffer (R50, R52). -/
def Buf.size : Buf → Nat
  | .txf => Config.txfSize
  | .rxb => Config.rxbSize
  | .pay => Config.paySize

/-- The offset of a buffer's byte 0 in the window (R54). -/
def Buf.base : Buf → Nat
  | .txf => 0x040
  | .rxb => 0x100
  | .pay => 0x300

/-- The offset belongs to one of the eleven registers (R54). -/
def inRegisters (off : Nat) : Bool := decide (off < Config.registersEnd)

/-- The offset belongs to one buffer (R54). -/
def Buf.holds (b : Buf) (off : Nat) : Bool := decide (b.base ≤ off) && decide (off < b.base + b.size)

/-- The offset belongs to some buffer. -/
def inBuffers (off : Nat) : Bool := Buf.holds .txf off || Buf.holds .rxb off || Buf.holds .pay off

/-- A byte access is offered inside the window, but not to a register (R53, R64). -/
def byteAccessOffered (off : Nat) : Bool := decide (off < Config.windowSize) && !inRegisters off

/-- A word access is offered inside the window, aligned, but not to a buffer (R53, R64). -/
def wordAccessOffered (off : Nat) : Bool :=
  decide (off < Config.windowSize) && decide (off % 4 = 0) && !inBuffers off

/-- The access is a transaction of the port; a model refuses any other (R53, R59). -/
def Access.wf : Access → Bool
  | .r8 off | .w8 off _ => byteAccessOffered off
  | .r16 _ | .w16 _ _ => false
  | .r32 off | .w32 off _ => wordAccessOffered off
  | .reset => true

/-- The access is offered and reaches neither a register nor a buffer: it is harmless (R59). -/
def Access.harmless : Access → Bool
  | .r8 off | .w8 off _ => byteAccessOffered off && !inBuffers off
  | .r16 _ | .w16 _ _ => false
  | .r32 off | .w32 off _ => wordAccessOffered off && !inRegisters off
  | .reset => false

/-- A transaction names a byte that exists, and an unmapped access is really one. -/
def Transaction.wf : Transaction → Bool
  | .regRead _ | .regWrite _ _ | .reset => true
  | .bufRead b i | .bufWrite b i _ => decide (i < b.size)
  | .unmapped a => a.harmless

/-- A command word has no operand field that could be ill formed (R80). -/
def Instr.wf : Instr → Bool
  | .nop | .cksum | .build | .parse | .be16 | .scale | .dword | .kwh | .ldw | .rst => true

end Sys2Proof
end

