-- ==== Sys2Proof/Decode.lean ====
section
/-! DEFINITION. The decoder of the command word and of the register window, each followed by its encoder. Command words
are moved whole, so no byte order stands between a word and its bits (`20_memory.md` rule R63). -/

namespace Sys2Proof

/-! ### Command words (`30_encoding.md` rules R80, R82, R84, R85) -/

/-- The operation numbers of R84; 9 to 14 are reserved. -/
def opTable : List (Nat × Instr) :=
  [(0, .nop), (1, .cksum), (2, .build), (3, .parse), (4, .be16), (5, .scale), (6, .dword), (7, .kwh), (8, .ldw),
   (15, .rst)]

/-- The field ZERO of R80, bits 31:4. -/
def zeroField (w : Word) : BitVec 28 := w.extractLsb' 4 28

/-- The field OP of R80, bits 3:0. -/
def opField (w : Word) : BitVec 4 := w.extractLsb' 0 4

/-- R82's decoding, total on every 32-bit word. -/
def decode (w : Word) : Except Illegal Instr :=
  if zeroField w ≠ 0 then .error .upperBits
  else match opTable.lookup (opField w).toNat with
    | some i => .ok i
    | none => .error .reservedOp

/-- The word column of R84. -/
def encode : Instr → Word
  | .nop => 0x00000000
  | .cksum => 0x00000001
  | .build => 0x00000002
  | .parse => 0x00000003
  | .be16 => 0x00000004
  | .scale => 0x00000005
  | .dword => 0x00000006
  | .kwh => 0x00000007
  | .ldw => 0x00000008
  | .rst => 0x0000000F

/-- The command word whose low `nbits` bits are those of `w`, all bits above being 0 (log entry 11). -/
def tableWord (nbits w : Nat) : Word := BitVec.ofNat 32 (w % 2 ^ nbits)

/-- The command the decoder reads from a row's bits, numbered as `opcode_table.json` numbers them. -/
def decodeTableWord (nbits w : Nat) : Option Instr :=
  match decode (tableWord nbits w) with
  | .ok i => some i
  | .error _ => none

/-! ### The register window (`20_memory.md` rule R54) -/

/-- The register rows of R54's map. -/
def regMap : List (Nat × RegName) :=
  [(0x000, .cmd), (0x004, .status), (0x008, .a0), (0x00C, .a1), (0x010, .a2), (0x014, .r0), (0x018, .r1),
   (0x01C, .crc), (0x020, .rxlen), (0x024, .plen), (0x028, .diag)]

/-- The register a word access at this offset reaches. -/
def regAt (off : Nat) : Option RegName := regMap.lookup off

/-- The buffer byte at this offset (R54). -/
def bufAt (off : Nat) : Option (Buf × Nat) :=
  if 0x040 ≤ off ∧ off ≤ 0x049 then some (.txf, off - 0x040)
  else if 0x100 ≤ off ∧ off ≤ 0x205 then some (.rxb, off - 0x100)
  else if 0x300 ≤ off ∧ off ≤ 0x3FE then some (.pay, off - 0x300)
  else none

/-- The unmapped rows of R54. -/
def isUnmapped (off : Nat) : Bool :=
  decide (0x02C ≤ off ∧ off ≤ 0x03F) || decide (0x04A ≤ off ∧ off ≤ 0x0FF) || decide (0x206 ≤ off ∧ off ≤ 0x2FF)
    || decide (off = 0x3FF)

/-- The transaction a word access is: a register's, or harmless at an aligned word of an unmapped row. Every mapped row
of R54 begins at a multiple of 4, so such a word has no mapped byte (DEDUCED, log entry 5). -/
def decodeWordAccess (off : Nat) (a : Access) (onReg : RegName → Transaction) : Option Transaction :=
  match regAt off with
  | some r => some (onReg r)
  | none => if off % 4 = 0 ∧ isUnmapped off = true then some (.unmapped a) else none

/-- The transaction a byte access is: a buffer's, or harmless at an unmapped offset (DEDUCED, log entry 5). -/
def decodeByteAccess (off : Nat) (a : Access) (onByte : Buf → Nat → Transaction) : Option Transaction :=
  match bufAt off with
  | some (b, i) => some (onByte b i)
  | none => if isUnmapped off then some (.unmapped a) else none

/-- The transaction an access is, if it is one of the port's (R53, R54, R59). -/
def decodeAccess (a : Access) : Option Transaction :=
  match a with
  | .r8 off => decodeByteAccess off a fun b i => .bufRead b i
  | .w8 off v => decodeByteAccess off a fun b i => .bufWrite b i v
  | .r16 _ => none
  | .w16 _ _ => none
  | .r32 off => decodeWordAccess off a fun r => .regRead r
  | .w32 off w => decodeWordAccess off a fun r => .regWrite r w
  | .reset => some .reset

/-- The offset column of R54. -/
def RegName.offset : RegName → Nat
  | .cmd => 0x000
  | .status => 0x004
  | .a0 => 0x008
  | .a1 => 0x00C
  | .a2 => 0x010
  | .r0 => 0x014
  | .r1 => 0x018
  | .crc => 0x01C
  | .rxlen => 0x020
  | .plen => 0x024
  | .diag => 0x028

/-- The (kind, offset, data) of R94 for each transaction. -/
def encodeTransaction : Transaction → Access
  | .regRead r => .r32 r.offset
  | .regWrite r w => .w32 r.offset w
  | .bufRead b i => .r8 (b.base + i)
  | .bufWrite b i v => .w8 (b.base + i) v
  | .reset => .reset
  | .unmapped a => a

end Sys2Proof
end

