-- ==== Sys2Proof/Machine/State.lean ====
section
/-! DEFINITION. The state of CK16FC (`10_state.md` rule R20), its reset (R39), and the ways a step can stop. -/

namespace Sys2Proof.Machine

/-- The source's ValidationOutcome as STATUS.OUTCOME holds it: Success, the five failure kinds, and None (R27, R241).
Code 6 is never produced, and R243 lets a model omit it. -/
inductive ValidationOutcome
  | success | invalidPrefix | addressMismatch | invalidFunctionCode | missingTrailer | checksumMismatch
  /-- None: no PARSE has completed since reset -/
  | noParse
  deriving DecidableEq, Repr

/-- The command faults (R245). Each is latched in STATUS.ERR by a next state; none stops the machine. -/
inductive CommandFault
  | illCmd | opRange | bufRange | noPayload
  deriving DecidableEq, Repr

/-- What the port returns to the host for a read (R53). -/
inductive Reply
  | word (w : Word)
  | byte (b : Byte)
  deriving DecidableEq, Repr

/-- A buffer: the bytes that differ from the buffer's reset contents, by rising index. -/
abbrev Mem := List Host.Cell

/-- Every piece of state of R20, then the two fields by which a step meets its host. -/
structure State where
  /-- operand registers (R21) -/
  a0 : Word
  a1 : Word
  a2 : Word
  /-- result registers (R22) -/
  r0 : Word
  r1 : Word
  /-- STATUS.OUTCOME (R27); STATUS is held by fields (DESIGN CHOICE, log entry 8) -/
  outcome : ValidationOutcome
  /-- STATUS.LENERR (R28) -/
  lenErr : Bool
  /-- STATUS.TXV (R29) -/
  txv : Bool
  /-- STATUS.ERR, `none` for 0 (R30) -/
  err : Option CommandFault
  /-- the checksum accumulator (R31) -/
  crc : Half
  /-- response length (R32) -/
  rxlen : BitVec 9
  /-- payload length (R33) -/
  plen : BitVec 8
  /-- DIAG.EXP (R34) -/
  diagExp : Half
  /-- DIAG.ACT (R34) -/
  diagAct : Half
  /-- request frame buffer (R35) -/
  txf : Mem
  /-- response buffer (R36) -/
  rxb : Mem
  /-- payload buffer (R37) -/
  pay : Mem
  /-- the model's own: the accesses the host has still to make, first to last (R24; DESIGN CHOICE, log entry 1) -/
  script : List Access
  /-- the model's own: what the port has returned to the host, newest first (R53; DESIGN CHOICE, log entry 3) -/
  replies : List Reply
  deriving DecidableEq, Repr

/-- The block never stops: an invalid response and a malformed command both leave a next state (R240, R251), so no
fault of the machine exists (DEDUCED, log entry 17). -/
inductive Fault
  deriving DecidableEq, Repr

/-- Why a step has no meaning. -/
inductive Refusal
  /-- Raised by `exec` for an instruction with no meaning yet: no arm does. Safe. -/
  | notModelled (mnemonic : String)
  /-- Raised by the port for an access that is no transaction of it: another width, misaligned, outside the window
  (R53, R59, X6; log entry 6). Safe: no claim can be made past it. -/
  | notATransaction (a : Access)
  /-- Raised by the buffer primitives out of bounds (R52; log entry 7). Safe; no command reaches it, since each checks
  first. -/
  | outOfBounds (b : Buf) (i n : Nat)
  deriving DecidableEq, Repr

/-- The block right after reset (R39): no buffer differs from its reset contents; the host has asked nothing yet. -/
def State.reset : State where
  a0 := 0
  a1 := 0
  a2 := 0
  r0 := 0
  r1 := 0
  outcome := .noParse
  lenErr := false
  txv := false
  err := none
  crc := 0xFFFF
  rxlen := 0
  plen := 0
  diagExp := 0
  diagAct := 0
  txf := []
  rxb := []
  pay := []
  script := []
  replies := []

end Sys2Proof.Machine
end

