-- ==== Sys2Proof/Machine/Ops.lean ====
section
/-! DEFINITION. The named operations over the buffers and registers: reading and writing a buffer (`20_memory.md` rule
R52), the updates the commands share, latching a command fault and leaving the faulted state (`60_exceptions.md` rules
R246, R252). -/

namespace Sys2Proof.Machine

/-! ### Halves of a 16-bit value (`00_scope.md` rules R11, R12) -/

/-- `v[15:8]` -/
def highByte (v : Half) : Byte := v.extractLsb' 8 8

/-- `v[7:0]` -/
def lowByte (v : Half) : Byte := v.extractLsb' 0 8

/-- `(v[7:0] << 8) OR v[15:8]` (R12) -/
def swap16 (v : Half) : Half := ((lowByte v).setWidth 16 <<< 8) ||| (highByte v).setWidth 16

/-! ### A buffer as a list of cells -/

/-- The byte at index `i`, where an unlisted index reads `d i`. -/
def memGet (d : Nat → Byte) (m : Mem) (i : Nat) : Byte :=
  match m with
  | [] => d i
  | (k, v) :: rest => if k = i then v else memGet d rest i

/-- The list without its entry for `i`. -/
def memErase (m : Mem) (i : Nat) : Mem :=
  match m with
  | [] => []
  | (k, v) :: rest => if k = i then memErase rest i else (k, v) :: memErase rest i

/-- An entry for `i` put before the first larger index. -/
def memInsert (m : Mem) (i : Nat) (b : Byte) : Mem :=
  match m with
  | [] => [(i, b)]
  | (k, v) :: rest => if i < k then (i, b) :: (k, v) :: rest else (k, v) :: memInsert rest i b

/-- The byte `b` stored at `i`: no entry is kept for a byte that an unlisted index reads as. -/
def memPut (d : Nat → Byte) (m : Mem) (i : Nat) (b : Byte) : Mem :=
  if b = d i then memErase m i else memInsert (memErase m i) i b

/-- The bytes of `v` stored at `i`, `i + 1`, … -/
def memPutList (d : Nat → Byte) (m : Mem) (i : Nat) (v : List Byte) : Mem :=
  match v with
  | [] => m
  | b :: rest => memPutList d (memPut d m i b) (i + 1) rest

/-- The `n` bytes `f i`, `f (i + 1)`, … -/
def bytesFrom (f : Nat → Byte) (i n : Nat) : List Byte :=
  match n with
  | 0 => []
  | n + 1 => f i :: bytesFrom f (i + 1) n

/-- Canonical from index `lo` on: indices rise strictly and stay below `size`, and no entry is what an unlisted index
reads as. -/
def memWfFrom (d : Nat → Byte) (size lo : Nat) (m : Mem) : Bool :=
  match m with
  | [] => true
  | (k, v) :: rest => decide (lo ≤ k) && decide (k < size) && decide (v ≠ d k) && memWfFrom d size (k + 1) rest

/-! ### The three buffers of a state -/

/-- The request template that TXF holds at reset (R39, R131). -/
def template : List Byte := [0x0A, 0x00, 0x03, 0x00, 0x00, 0x00, 0x00, 0x00, 0x00, 0x0D]

/-- What an unlisted index reads as: the buffer's reset contents (R39). -/
def resetByte (b : Buf) (i : Nat) : Byte :=
  match b with
  | .txf => template.getD i 0
  | .rxb => 0
  | .pay => 0

def State.buf (s : State) (b : Buf) : Mem :=
  match b with
  | .txf => s.txf
  | .rxb => s.rxb
  | .pay => s.pay

def State.setBuf (s : State) (b : Buf) (m : Mem) : State :=
  match b with
  | .txf => { s with txf := m }
  | .rxb => { s with rxb := m }
  | .pay => { s with pay := m }

/-- The stored byte `B[i]`. -/
def State.byteAt (s : State) (b : Buf) (i : Nat) : Byte := memGet (resetByte b) (s.buf b) i

/-- The canonical form of one buffer. -/
def State.bufWf (s : State) (b : Buf) : Bool := memWfFrom (resetByte b) b.size 0 (s.buf b)

/-- The canonical form of the block's memory. -/
def State.memWf (s : State) : Bool := s.bufWf .txf && s.bufWf .rxb && s.bufWf .pay

/-- `MemRead(B, i, n)` (R52), then the rest of the command; a refusal out of bounds, as R52 allows. -/
def State.memRead (s : State) (b : Buf) (i n : Nat) (k : List Byte → Host.Outcome State Fault Refusal) :
    Host.Outcome State Fault Refusal :=
  if i + n ≤ b.size then k (bytesFrom (s.byteAt b) i n) else .refused (.outOfBounds b i n)

/-- `MemWrite(B, i, n, v)` with n the length of `v` (R52), then the rest of the command. -/
def State.memWrite (s : State) (b : Buf) (i : Nat) (v : List Byte) (k : State → Host.Outcome State Fault Refusal) :
    Host.Outcome State Fault Refusal :=
  if i + v.length ≤ b.size then k (s.setBuf b (memPutList (resetByte b) (s.buf b) i v))
  else .refused (.outOfBounds b i v.length)

/-! ### Register updates the commands share -/

def State.setR0 (s : State) (v : Word) : State := { s with r0 := v }

def State.setR1 (s : State) (v : Word) : State := { s with r1 := v }

def State.setCrc (s : State) (r : Half) : State := { s with crc := r }

def State.setTxv (s : State) : State := { s with txv := true }

/-- The fields of STATUS and DIAG, and PLEN, that every completed PARSE writes (R139, R140). -/
def State.setVerdict (s : State) (outcome : ValidationOutcome) (lenErr : Bool) (plen : BitVec 8) (exp act : Half) :
    State :=
  { s with outcome := outcome, lenErr := lenErr, plen := plen, diagExp := exp, diagAct := act }

/-! ### Command faults -/

/-- STATUS.ERR takes the fault's code, and nothing else changes (R246). -/
def State.latch (s : State) (c : CommandFault) : State := { s with err := some c }

/-- `raise Fault(code)` (R13, R246): the command ends with the fault latched. -/
def raise (c : CommandFault) (s : State) : Host.Outcome State Fault Refusal := .next (s.latch c)

/-- A check of a command: where it fails the command raises `c`, else the command goes on (R83, R247). -/
def require (ok : Bool) (c : CommandFault) (s : State) (k : Host.Outcome State Fault Refusal) :
    Host.Outcome State Fault Refusal :=
  if ok then k else raise c s

/-- Leaving the faulted state, and every other: all of the block takes its reset value (R191, R252, R270). What the host
has still to do and what it has been told are not the block's and stay (DESIGN CHOICE, log entry 13). -/
def State.resetBlock (s : State) : State := { State.reset with script := s.script, replies := s.replies }

/-! ### The host's side -/

def State.setScript (s : State) (script : List Access) : State := { s with script := script }

/-- The port returns `r` to the host. -/
def State.answer (s : State) (r : Reply) : State := { s with replies := r :: s.replies }

end Sys2Proof.Machine
end

