-- ==== Sys2Proof/Machine/Control.lean ====
section
/-! DEFINITION. The commands NOP and RST (`43_control.md`). -/

namespace Sys2Proof.Machine

/-- NOP: nothing (R190). -/
def execNop (s : State) : Host.Outcome State Fault Refusal := .next s

/-- RST: every piece of the block's state takes its reset value (R191). -/
def execRst (s : State) : Host.Outcome State Fault Refusal := .next s.resetBlock

end Sys2Proof.Machine
end

