-- ==== Sys2Proof/Machine/Operands.lean ====
section
/-! DEFINITION. The operand ranges of `30_encoding.md` rule R83. An operand is a whole 32-bit register, checked against
the range of the source's type and never truncated into it; only a checked operand is narrowed. -/

namespace Sys2Proof.Machine

/-- A `u8` operand: 0 to 0xFF. -/
def isU8 (w : Word) : Bool := decide (w.toNat ≤ 0xFF)

/-- A `u16` operand: 0 to 0xFFFF. -/
def isU16 (w : Word) : Bool := decide (w.toNat ≤ 0xFFFF)

/-- `decimal_places`: 0 to 9 (R162). -/
def isDecimalPlaces (w : Word) : Bool := decide (w.toNat ≤ Config.dpMax)

/-- The low byte of a checked `u8` operand. -/
def asU8 (w : Word) : Byte := w.setWidth 8

/-- The low half of a checked `u16` operand. -/
def asU16 (w : Word) : Half := w.setWidth 16

/-- The buffer that CKSUM's buffer select names, 0 to 2 (R83, R115). -/
def selectBuf (w : Word) : Option Buf :=
  if w = 0 then some .txf else if w = 1 then some .rxb else if w = 2 then some .pay else none

/-- The valid length of a buffer, which limits CKSUM's range (R115). -/
def State.limit (s : State) (b : Buf) : Nat :=
  match b with
  | .txf => Config.txfSize
  | .rxb => s.rxlen.toNat
  | .pay => s.plen.toNat

/-- RXLEN names no more bytes than RXB has (R32). -/
def State.rxlenFits (s : State) : Bool := decide (s.rxlen.toNat ≤ Config.rxbSize)

end Sys2Proof.Machine
end

