-- ==== Sys2Proof/Machine/Checksum.lean ====
section
/-! DEFINITION. The Checksum Engine and the command CKSUM (`40_checksum.md`). -/

namespace Sys2Proof.Machine

/-- CRC_INIT (R7). -/
def crcInit : Half := 0xFFFF

/-- CRC_POLY (R7). -/
def crcPoly : Half := 0xA001

/-- One bit step: a logical right shift, then XOR when the bit shifted out was 1 (R110). -/
def crcBit (r : Half) : Half := if r.getLsbD 0 then (r >>> 1) ^^^ crcPoly else r >>> 1

/-- `n` bit steps in succession. -/
def crcBits (n : Nat) (r : Half) : Half :=
  match n with
  | 0 => r
  | n + 1 => crcBits n (crcBit r)

/-- One byte step: XOR into the low byte, then eight bit steps (R111). -/
def crcByte (r : Half) (b : Byte) : Half := crcBits 8 (r ^^^ b.setWidth 16)

/-- The register after the bytes, in ascending order. -/
def crcRun (r : Half) (bytes : List Byte) : Half :=
  match bytes with
  | [] => r
  | b :: rest => crcRun (crcByte r b) rest

/-- `checksum16(bytes, offset, count)`, over bytes `offset` to `offset + count − 1` (R112). -/
def checksum16 (bytes : List Byte) (offset count : Nat) : Half :=
  swap16 (crcRun crcInit ((bytes.drop offset).take count))

/-- CKSUM (R115). -/
def execCksum (s : State) : Host.Outcome State Fault Refusal :=
  match selectBuf s.a0 with
  | none => raise .opRange s
  | some b =>
    require (decide (b ≠ .rxb) || s.rxlenFits) .bufRange s <|
    require (decide (s.a1.toNat + s.a2.toNat ≤ s.limit b)) .bufRange s <|
    s.memRead b s.a1.toNat s.a2.toNat fun bytes =>
      let r := crcRun crcInit bytes
      .next ((s.setCrc r).setR0 ((swap16 r).setWidth 32))

end Sys2Proof.Machine
end

