-- ==== Sys2Proof/Machine/FieldDecoder.lean ====
section
/-! DEFINITION. The Field Decoder and the commands BE16, SCALE, DWORD, KWH, LDW (`42_field_decoder.md`). -/

namespace Sys2Proof.Machine

/-- `be16(hi, lo)` is `(hi << 8) OR lo`, zero-extended to 32 bits (R160). -/
def be16 (hi lo : Byte) : Word := (hi.setWidth 32 <<< 8) ||| lo.setWidth 32

/-- BE16 (R161). -/
def execBe16 (s : State) : Host.Outcome State Fault Refusal :=
  require (isU8 s.a0) .opRange s <|
  require (isU8 s.a1) .opRange s <|
  .next (s.setR0 (be16 (asU8 s.a0) (asU8 s.a1)))

/-- The scaling lookup POW10 (R162). -/
def pow10Table : List Word :=
  [1, 10, 100, 1000, 10000, 100000, 1000000, 10000000, 100000000, 1000000000]

/-- POW10[d], for d from 0 to 9. -/
def pow10 (d : Nat) : Word := pow10Table.getD d 1

/-- `scaled(raw, d)`: integer part and fractional part (R164). -/
def scaled (raw : Word) (d : Nat) : Word × Word := (raw / pow10 d, raw % pow10 d)

/-- SCALE (R165). -/
def execScale (s : State) : Host.Outcome State Fault Refusal :=
  require (isDecimalPlaces s.a1) .opRange s <|
  .next ((s.setR0 (scaled s.a0 s.a1.toNat).1).setR1 (scaled s.a0 s.a1.toNat).2)

/-- `dword(word0, word1)` is `(word0 << 8) + word1`: a shift by 8 and an addition with carry (R169). -/
def dword (word0 word1 : Half) : Word := (word0.setWidth 32 <<< 8) + word1.setWidth 32

/-- DWORD (R170). -/
def execDword (s : State) : Host.Outcome State Fault Refusal :=
  require (isU16 s.a0) .opRange s <|
  require (isU16 s.a1) .opRange s <|
  .next (s.setR0 (dword (asU16 s.a0) (asU16 s.a1)))

/-- `kwh(whole, fractional)` is `whole * 1000 + fractional` (R172, conflict C4). -/
def kwh (whole fractional : Half) : Word := whole.setWidth 32 * 1000 + fractional.setWidth 32

/-- KWH (R173). -/
def execKwh (s : State) : Host.Outcome State Fault Refusal :=
  require (isU16 s.a0) .opRange s <|
  require (isU16 s.a1) .opRange s <|
  .next (s.setR0 (kwh (asU16 s.a0) (asU16 s.a1)))

/-- LDW (R175): the inverter word A0 of a payload that is there, high byte first (R62). -/
def execLdw (s : State) : Host.Outcome State Fault Refusal :=
  require (decide (s.outcome = .success)) .noPayload s <|
  require (decide (2 * s.a0.toNat + 1 < s.plen.toNat)) .bufRange s <|
  s.memRead .pay (2 * s.a0.toNat) 2 fun bytes =>
    .next (s.setR0 (be16 (bytes.getD 0 0) (bytes.getD 1 0)))

end Sys2Proof.Machine
end

