-- ==== Sys2Proof/Machine/Flags.lean ====
section
/-! DEFINITION. STATUS and DIAG as the port reads them (`10_state.md` rules R26, R27, R30, R34). The STATUS fields are
the only flags; no arithmetic command sets one (R38). -/

namespace Sys2Proof.Machine

/-- The outcome's code in STATUS.OUTCOME and in R0 after PARSE (R27, R241). -/
def outcomeCode (o : ValidationOutcome) : BitVec 3 :=
  match o with
  | .success => 0
  | .invalidPrefix => 1
  | .addressMismatch => 2
  | .invalidFunctionCode => 3
  | .missingTrailer => 4
  | .checksumMismatch => 5
  | .noParse => 7

/-- The fault's code in STATUS.ERR (R30, R245). -/
def faultCode (c : CommandFault) : BitVec 4 :=
  match c with
  | .illCmd => 1
  | .opRange => 2
  | .bufRange => 3
  | .noPayload => 4

/-- STATUS.ERR: 0 when no fault is latched (R30). -/
def errCode (e : Option CommandFault) : BitVec 4 :=
  match e with
  | none => 0
  | some c => faultCode c

/-- STATUS: OUTCOME in 2:0, LENERR 3, TXV 4, ERR in 11:8, the rest 0 (R26). -/
def State.statusWord (s : State) : Word :=
  (0 : BitVec 20) ++ errCode s.err ++ (0 : BitVec 3) ++ BitVec.ofBool s.txv ++ BitVec.ofBool s.lenErr
    ++ outcomeCode s.outcome

/-- DIAG: EXP in 31:16, ACT in 15:0 (R34). -/
def State.diagWord (s : State) : Word := s.diagExp ++ s.diagAct

end Sys2Proof.Machine
end

