-- ==== Sys2Proof/Machine/FrameCodec.lean ====
section
/-! DEFINITION. The Frame Codec and the commands BUILD and PARSE (`41_frame_codec.md`). -/

namespace Sys2Proof.Machine

/-- The first byte of every frame (R7). -/
def framePrefix : Byte := 0x0A

/-- The function byte of every frame (R7). -/
def frameFunc : Byte := 0x03

/-- The last byte of every frame (R7). -/
def frameTrailer : Byte := 0x0D

/-! ### Building a request -/

/-- Bytes 0 to 6 of a request (R88), which are final before the checksum is computed (R89). -/
def requestHead (address : Byte) (start count : Half) : List Byte :=
  [framePrefix, address, frameFunc, highByte start, lowByte start, highByte count, lowByte count]

/-- `build_request(address, register_start, register_count)`, ten bytes (R131). -/
def buildRequest (address : Byte) (start count : Half) : List Byte :=
  let head := requestHead address start count
  let c := checksum16 head 1 6
  head ++ [highByte c, lowByte c, frameTrailer]

/-- The loose request decoder: address, start and count of a ten-byte frame, with no validation (R93). -/
def looseDecode (f : List Byte) : Byte × Half × Half :=
  (f.getD 1 0, asU16 (be16 (f.getD 3 0) (f.getD 4 0)), asU16 (be16 (f.getD 5 0) (f.getD 6 0)))

/-- BUILD (R132). -/
def execBuild (s : State) : Host.Outcome State Fault Refusal :=
  require (isU8 s.a0) .opRange s <|
  require (isU16 s.a1) .opRange s <|
  require (isU16 s.a2) .opRange s <|
  let f := buildRequest (asU8 s.a0) (asU16 s.a1) (asU16 s.a2)
  let placed := be16 (f.getD 7 0) (f.getD 8 0)
  s.memWrite .txf 0 f fun t => .next (((t.setCrc (swap16 (asU16 placed))).setR0 placed).setTxv)

/-! ### Validating a response -/

/-- The result of `parse_response`: the fields the write-backs of R139 and R140 take. -/
inductive ParseResult
  /-- a failure, with CRC's new value where check (e) was reached -/
  | fail (kind : ValidationOutcome) (exp act : Half) (lenErr : Bool) (crc : Option Half)
  /-- success, with the computed and the received checksum and CRC's new value -/
  | succeed (payload : List Byte) (c rx : Half) (crc : Half)
  deriving DecidableEq, Repr

/-- `act(x)`: a byte zero-extended, or 0x0100 for an absent one (R137). -/
def actual (x : Option Byte) : Half :=
  match x with
  | some b => b.setWidth 16
  | none => 0x0100

/-- Check (e), over a frame whose length is `len + 7` (R137). -/
def checkSum (rx : List Byte) (len : Nat) : ParseResult :=
  let r := crcRun crcInit ((rx.drop 1).take (len + 3))
  let c := swap16 r
  let got := asU16 (be16 (rx.getD (len + 4) 0) (rx.getD (len + 5) 0))
  if c ≠ got then .fail .checksumMismatch c got false (some r)
  else .succeed ((rx.drop 4).take len) c got r

/-- Check (d): the length, then the terminator (R137, R138). -/
def checkTrailer (rx : List Byte) : ParseResult :=
  match rx[3]? with
  | none => .fail .missingTrailer (frameTrailer.setWidth 16) 0x0100 true none
  | some l =>
    let t := l.toNat + 6
    if rx.length ≠ t + 1 then .fail .missingTrailer (frameTrailer.setWidth 16) (actual rx[t]?) true none
    else if rx[t]? ≠ some frameTrailer then
      .fail .missingTrailer (frameTrailer.setWidth 16) (actual rx[t]?) false none
    else checkSum rx l.toNat

/-- `parse_response` (R137) on the bytes received: `rx` is RXB[0 .. RXLEN−1], so that `rx[i]?` is R136's `byte(i)` and
`none` is ABSENT. The first failing check decides (R250). -/
def parseResponse (exp : Byte) (rx : List Byte) : ParseResult :=
  if rx[0]? ≠ some framePrefix then .fail .invalidPrefix (framePrefix.setWidth 16) (actual rx[0]?) false none
  else if rx[1]? ≠ some exp then .fail .addressMismatch (exp.setWidth 16) (actual rx[1]?) false none
  else if rx[2]? ≠ some frameFunc then
    .fail .invalidFunctionCode (frameFunc.setWidth 16) (actual rx[2]?) false none
  else checkTrailer rx

/-- CRC is written only where check (e) was reached (R140). -/
def State.setCrcIf (s : State) (r : Option Half) : State :=
  match r with
  | none => s
  | some r => s.setCrc r

/-- The write-backs of PARSE: R140 for a failure, R139 for a success. -/
def writeBack (p : ParseResult) (s : State) : Host.Outcome State Fault Refusal :=
  match p with
  | .fail kind exp act lenErr crc =>
    .next ((((s.setCrcIf crc).setVerdict kind lenErr 0 exp act).setR0 ((outcomeCode kind).setWidth 32)).setR1 0)
  | .succeed payload c rx crc =>
    s.memWrite .pay 0 payload fun t =>
      .next ((((t.setCrc crc).setVerdict .success false (BitVec.ofNat 8 payload.length) c rx).setR0 0).setR1
        (BitVec.ofNat 32 payload.length))

/-- PARSE (R141). -/
def execParse (s : State) : Host.Outcome State Fault Refusal :=
  require (isU8 s.a0) .opRange s <|
  require s.rxlenFits .bufRange s <|
  s.memRead .rxb 0 s.rxlen.toNat fun rx => writeBack (parseResponse (asU8 s.a0) rx) s

end Sys2Proof.Machine
end

