-- ==== Sys2Proof/Machine/Dispatch.lean ====
section
/-! DEFINITION. A command's meaning, by name, where it executes: `Machine/Port.lean` decides whether it does. -/

namespace Sys2Proof.Machine

def exec (i : Instr) (s : State) : Host.Outcome State Fault Refusal :=
  match i with
  | .nop => Sys2Proof.Machine.execNop s
  | .cksum => Sys2Proof.Machine.execCksum s
  | .build => Sys2Proof.Machine.execBuild s
  | .parse => Sys2Proof.Machine.execParse s
  | .be16 => Sys2Proof.Machine.execBe16 s
  | .scale => Sys2Proof.Machine.execScale s
  | .dword => Sys2Proof.Machine.execDword s
  | .kwh => Sys2Proof.Machine.execKwh s
  | .ldw => Sys2Proof.Machine.execLdw s
  | .rst => Sys2Proof.Machine.execRst s

end Sys2Proof.Machine
end

