-- ==== Sys2Proof/Machine/Port.lean ====
section
/-! DEFINITION. The host port: issuing a command (`30_encoding.md` rule R82) and the transactions of `20_memory.md`
rules R53 to R59. Every transaction is atomic, and a command is complete inside its CMD write (R65). -/

namespace Sys2Proof.Machine

/-- `Issue(w)` (R82): while a fault is latched only the exact word of RST executes and any other is dropped (R192).
The test stands here and not in `exec` (DESIGN CHOICE, log entry 12). -/
def issue (w : Word) (s : State) : Host.Outcome State Fault Refusal :=
  if s.err.isSome then
    if w = 0x0000000F then exec .rst s else .next s
  else
    match decode w with
    | .ok i => exec i s
    | .error _ => raise .illCmd s

/-- `RegRead(name)` (R55). -/
def State.readReg (s : State) (r : RegName) : Word :=
  match r with
  | .cmd => 0
  | .status => s.statusWord
  | .a0 => s.a0
  | .a1 => s.a1
  | .a2 => s.a2
  | .r0 => s.r0
  | .r1 => s.r1
  | .crc => s.crc.setWidth 32
  | .rxlen => s.rxlen.setWidth 32
  | .plen => s.plen.setWidth 32
  | .diag => s.diagWord

/-- `RegWrite(name, w)` (R56); read-only registers ignore it (R59). -/
def writeReg (r : RegName) (w : Word) (s : State) : Host.Outcome State Fault Refusal :=
  match r with
  | .cmd => issue w s
  | .a0 => .next { s with a0 := w }
  | .a1 => .next { s with a1 := w }
  | .a2 => .next { s with a2 := w }
  | .rxlen => .next { s with rxlen := w.setWidth 9 }
  | .status => .next s
  | .r0 => .next s
  | .r1 => .next s
  | .crc => .next s
  | .plen => .next s
  | .diag => .next s

/-- `BufRead(B, i)` in bounds (R57): PAY is masked by PLEN. -/
def State.hostByte (s : State) (b : Buf) (i : Nat) : Byte :=
  match b with
  | .txf => s.byteAt .txf i
  | .rxb => s.byteAt .rxb i
  | .pay => if i < s.plen.toNat then s.byteAt .pay i else 0

/-- `BufWrite(B, i, v)` (R58): only RXB takes it. -/
def writeByte (b : Buf) (i : Nat) (v : Byte) (s : State) : Host.Outcome State Fault Refusal :=
  match b with
  | .rxb => s.memWrite .rxb i [v] fun t => .next t
  | .txf => .next s
  | .pay => .next s

/-- An access to an unmapped offset: a read returns 0 of its width, a write is ignored (R59; which widths
is DEDUCED, log entry 5). -/
def unmappedAccess (a : Access) (s : State) : Host.Outcome State Fault Refusal :=
  match a with
  | .r8 _ => .next (s.answer (.byte 0))
  | .r32 _ => .next (s.answer (.word 0))
  | .w8 _ _ => .next s
  | .w32 _ _ => .next s
  | .r16 _ => .refused (.notATransaction a)
  | .w16 _ _ => .refused (.notATransaction a)
  | .reset => .refused (.notATransaction a)

/-- One transaction of the port (R53). -/
def perform (t : Transaction) (s : State) : Host.Outcome State Fault Refusal :=
  match t with
  | .regRead r => .next (s.answer (.word (s.readReg r)))
  | .regWrite r w => writeReg r w s
  | .bufRead b i => if i < b.size then .next (s.answer (.byte (s.hostByte b i))) else .refused (.outOfBounds b i 1)
  | .bufWrite b i v => if i < b.size then writeByte b i v s else .refused (.outOfBounds b i 1)
  | .reset => .next s.resetBlock
  | .unmapped a => unmappedAccess a s

/-- One access of the host: a transaction, or refused (R53, R59). -/
def serve (a : Access) (s : State) : Host.Outcome State Fault Refusal :=
  match decodeAccess a with
  | some t => perform t s
  | none => .refused (.notATransaction a)

/-- The host's next access, in issue order (R24, R53, R67). With none left the block stays as it is
(DESIGN CHOICE, log entry 2). -/
def serveNext (s : State) : Host.Outcome State Fault Refusal :=
  match s.script with
  | [] => .next s
  | a :: rest => serve a (s.setScript rest)

/-! ### Where the window sits (R66) -/

/-- The offset of a bus address in a window at `base`, if it lies there. BASE is an argument of the model (R9, X10). -/
def windowOffset (base address : Nat) : Option Nat :=
  if base ≤ address ∧ address < base + Config.windowSize then some (address - base) else none

/-- A host's word write to a bus address, as an access of the block whose window is at `base`. -/
def busWrite32 (base address : Nat) (w : Word) : Option Access := (windowOffset base address).map (.w32 · w)

/-- A host's word read of a bus address. -/
def busRead32 (base address : Nat) : Option Access := (windowOffset base address).map .r32

/-- A host's byte write to a bus address. -/
def busWrite8 (base address : Nat) (v : Byte) : Option Access := (windowOffset base address).map (.w8 · v)

/-- A host's byte read of a bus address. -/
def busRead8 (base address : Nat) : Option Access := (windowOffset base address).map .r8

end Sys2Proof.Machine
end

