-- ==== Sys2Proof/Machine/Step.lean ====
section
/-! DEFINITION. One step: the host's next access, served whole. The block fetches nothing (`10_state.md` rule R24); a
command runs inside the CMD write that issues it. -/

namespace Sys2Proof.Machine

def step (s : State) : Host.Outcome State Fault Refusal := serveNext s

/-- The state whose host next writes this word to CMD; everything it had still to do comes after
(DESIGN CHOICE, log entry 10). -/
def State.withFetchWord (s : State) (nbits w : Nat) : State :=
  s.setScript (.w32 0x000 (tableWord nbits w) :: s.script)

end Sys2Proof.Machine
end

