-- ==== Sys2Proof/Machine/Script.lean ====
section
/-! DEFINITION. The statements of a host script as accesses of the port (`30_encoding.md` rules R94 to R96), and one
block read spelled in them (`48_host_context.md` rules R203, R207). -/

namespace Sys2Proof.Machine.Script

/-! ### Primitive statements (R94) -/

/-- `wr <reg>, <value>` -/
def wr (r : RegName) (w : Word) : Access := encodeTransaction (.regWrite r w)

/-- `rd <reg>` -/
def rd (r : RegName) : Access := encodeTransaction (.regRead r)

/-- `wb RXB[<i>], <byte>` -/
def wb (i : Nat) (v : Byte) : Access := encodeTransaction (.bufWrite .rxb i v)

/-- `rb <buf>[<i>]` -/
def rb (b : Buf) (i : Nat) : Access := encodeTransaction (.bufRead b i)

/-- A bare command mnemonic: a write of its word to CMD (R95). -/
def command (i : Instr) : Access := wr .cmd (encode i)

/-! ### Pseudo-statements (R96) -/

/-- The buffer select of `CKSUM <buf>`: TXF 0, RXB 1, PAY 2. -/
def selectWord (b : Buf) : Word :=
  match b with
  | .txf => 0
  | .rxb => 1
  | .pay => 2

/-- `CKSUM <buf>, <off>, <cnt>` -/
def cksum (b : Buf) (off cnt : Word) : List Access :=
  [wr .a0 (selectWord b), wr .a1 off, wr .a2 cnt, command .cksum]

/-- `BUILD <addr>, <start>, <count>` -/
def build (addr start count : Word) : List Access := [wr .a0 addr, wr .a1 start, wr .a2 count, command .build]

/-- `PARSE <addr>` -/
def parse (addr : Word) : List Access := [wr .a0 addr, command .parse]

/-- `BE16 <hi>, <lo>` -/
def be16 (hi lo : Word) : List Access := [wr .a0 hi, wr .a1 lo, command .be16]

/-- `SCALE <raw>, <dp>` -/
def scale (raw dp : Word) : List Access := [wr .a0 raw, wr .a1 dp, command .scale]

/-- `DWORD <w0>, <w1>` -/
def dword (w0 w1 : Word) : List Access := [wr .a0 w0, wr .a1 w1, command .dword]

/-- `KWH <whole>, <frac>` -/
def kwh (whole frac : Word) : List Access := [wr .a0 whole, wr .a1 frac, command .kwh]

/-- `LDW <k>` -/
def ldw (k : Word) : List Access := [wr .a0 k, command .ldw]

/-- `wb RXB[i], …` for each byte in turn. -/
def storeFrom (i : Nat) (bytes : List Byte) : List Access :=
  match bytes with
  | [] => []
  | b :: rest => wb i b :: storeFrom (i + 1) rest

/-- `LOADRX b0 b1 … b(n−1)` -/
def loadRx (bytes : List Byte) : List Access :=
  storeFrom 0 bytes ++ [wr .rxlen (BitVec.ofNat 32 bytes.length)]

/-! ### One block read (R207) -/

/-- `rb B[i]`, … for `n` bytes. -/
def readFrom (b : Buf) (i n : Nat) : List Access :=
  match n with
  | 0 => []
  | n + 1 => rb b i :: readFrom b (i + 1) n

/-- Steps (1) and (2): build the request and read the ten bytes to send. -/
def request (addr start count : Word) : List Access := build addr start count ++ readFrom .txf 0 Config.txfSize

/-- Steps (3) to (6): store what was received, all or part of a response (R206), validate it, read the outcome. -/
def validate (addr : Word) (received : List Byte) : List Access :=
  loadRx received ++ parse addr ++ [rd .status, rd .diag]

/-- `expected_response_length` for `n` inverter registers (R92, R203). -/
def expectedResponseLength (n : Nat) : Nat := 2 * n + 7

end Sys2Proof.Machine.Script
end

