-- ==== Sys2Proof/Machine/HostContext.lean ====
section
/-! DEFINITION. The software around the block, where `48_host_context.md` gives it as a function. None of it is the
block's (`00_scope.md` rule R4), and no step calls it. FAIL_THRESHOLD is an argument (R9, U6); the pacing sleep of each
iteration is counted as the iteration itself, since no time is modelled (R205, R280). -/

namespace Sys2Proof.Machine.HostContext

/-- The two errors of the Transport Loop (R214). -/
inductive TransportError
  | timeout (bytesReceived : Nat)
  | writeFault (expected actual : Nat)
  deriving DecidableEq, Repr

/-- How a read loop ended: the bytes it has, its error if any, and how many iterations it made. -/
structure ReadResult where
  buffer : List Byte
  error : Option TransportError
  iterations : Nat
  deriving DecidableEq, Repr

/-- The polling read loop (R202, R204). `reads` is what the channel answers, read by read; where it ends before the loop
does, there is no result. -/
def readLoop (expected threshold : Nat) (reads : List (Option Byte)) (buffer : List Byte) (fails iterations : Nat) :
    Option ReadResult :=
  if expected ≤ buffer.length then some ⟨buffer, none, iterations⟩
  else
    match reads with
    | [] => none
    | some x :: rest =>
      if threshold ≤ 0 then some ⟨buffer ++ [x], some (.timeout (buffer.length + 1)), iterations + 1⟩
      else readLoop expected threshold rest (buffer ++ [x]) 0 (iterations + 1)
    | none :: rest =>
      if threshold ≤ fails + 1 then some ⟨buffer, some (.timeout buffer.length), iterations + 1⟩
      else readLoop expected threshold rest buffer (fails + 1) (iterations + 1)

/-- The read step of `exchange`, from an empty buffer (R202). -/
def exchangeRead (expected threshold : Nat) (reads : List (Option Byte)) : Option ReadResult :=
  readLoop expected threshold reads [] 0 0

/-- The write step: a fault where the bytes written differ in number from the frame's; the read follows all the same
(R201, conflict C7). -/
def exchangeWrite (frame : List Byte) (written : Nat) : Option TransportError :=
  if written ≠ frame.length then some (.writeFault frame.length written) else none

/-- ASCII alphanumeric (R210, G2). -/
def isAlphanumeric (x : Byte) : Bool :=
  decide (0x30 ≤ x.toNat ∧ x.toNat ≤ 0x39) || decide (0x41 ≤ x.toNat ∧ x.toNat ≤ 0x5A)
    || decide (0x61 ≤ x.toNat ∧ x.toNat ≤ 0x7A)

/-- The identity-string filter (R210). -/
def filterIdentity (bytes : List Byte) : List Byte := bytes.filter isAlphanumeric

/-- The blocks of the catalog, one exchange each (R209). -/
inductive CatalogBlock
  | tripSettings1 | tripSettings2 | deviceSettings | cumulativeTotals | identityBrand | identityType | identitySerial
  | currentState | currentValues | extendedValues
  deriving DecidableEq, Repr

/-- The registers column of R209; the starts REG_START_* are open (U7), so a start is an argument of `Script.request`. -/
def CatalogBlock.registers (b : CatalogBlock) : Nat :=
  match b with
  | .tripSettings1 => 10
  | .tripSettings2 => 7
  | .deviceSettings => 4
  | .cumulativeTotals => 15
  | .identityBrand => 15
  | .identityType => 15
  | .identitySerial => 15
  | .currentState => 5
  | .currentValues => 15
  | .extendedValues => 2

/-- What a failed exchange reports: an error of the loop, or a response that PARSE found invalid (R214). -/
inductive BlockCause
  | transport (e : TransportError)
  | invalid (o : ValidationOutcome)
  deriving DecidableEq, Repr

/-- `BlockFailure`, which names the block of the catalog that failed (R214). -/
structure BlockFailure where
  block : CatalogBlock
  cause : BlockCause
  deriving DecidableEq, Repr

end Sys2Proof.Machine.HostContext
end

