-- ==== Sys2Proof/Safety.lean ====
section
/-! DEFINITION. What counts as a good run, in the terms claims use: the invariant of every reachable state, and the ends
of a script that are good ones. -/

namespace Sys2Proof.Machine

/-- TXF is a frame fit to send (`41_frame_codec.md` rule R134). -/
def State.txfBuilt (s : State) : Prop :=
  s.byteAt .txf 0 = 0x0A ∧ s.byteAt .txf 2 = 0x03 ∧ s.byteAt .txf 9 = 0x0D ∧
    be16 (s.byteAt .txf 7) (s.byteAt .txf 8) = (checksum16 (bytesFrom (s.byteAt .txf) 0 10) 1 6).setWidth 32

/-- What holds after reset and after every step. -/
structure State.Inv (s : State) : Prop where
  /-- the buffers keep their canonical form -/
  canonical : s.memWf = true
  /-- R134 -/
  built : s.txv = true → s.txfBuilt
  /-- R35, R39, D29: before a BUILD, TXF is the reset template -/
  unbuilt : s.txv = false → s.txf = []
  /-- R57: a payload is visible only after a successful PARSE -/
  payloadNeedsSuccess : s.plen ≠ 0 → s.outcome = .success
  /-- R28 -/
  lenErrNeedsTrailer : s.lenErr = true → s.outcome = .missingTrailer
  /-- R139 -/
  successAgrees : s.outcome = .success → s.diagExp = s.diagAct
  /-- R27, R37, R241: before a PARSE has completed -/
  beforeParse : s.outcome = .noParse → s.diagExp = 0 ∧ s.diagAct = 0 ∧ s.pay = []

/-- A command fault is latched: the block is quiescent for commands until RST (R248). -/
def State.faulted (s : State) : Prop := s.err ≠ none

/-- The script has run to a good end: nothing is left and no fault is latched (R248). -/
def State.endsWell (s : State) : Prop := s.script = [] ∧ s.err = none

/-- The host may send TXF (R276). -/
def State.maySend (s : State) : Prop := s.txv = true

/-- From `s`, `k` steps reach a good end. -/
def State.runsWell (s : State) (k : Nat) : Prop := ∃ t, core.run k s = .next t ∧ t.endsWell

end Sys2Proof.Machine
end

