-- ==== Sys2Proof/Certificates/Slice0/Obligations.lean ====
section
/-! DEFINITION. What is to be proved of the model. A result is said over numbers and single bytes, where the model computes
on words and lists. -/

open Sys2Proof Sys2Proof.Machine

/-! ### Terms of the statements -/

namespace Sys2Proof.Slice0

/-- The reset table of `10_state.md` rule R39, row by row. -/
def IsReset (t : State) : Prop :=
  t.a0 = 0 ∧ t.a1 = 0 ∧ t.a2 = 0 ∧ t.r0 = 0 ∧ t.r1 = 0 ∧ t.outcome = .noParse ∧ t.lenErr = false ∧ t.txv = false ∧
    t.err = none ∧ t.statusWord = 0x00000007 ∧ t.crc = 0xFFFF ∧ t.rxlen = 0 ∧ t.plen = 0 ∧ t.diagWord = 0 ∧
    (∀ i, i < 10 → t.byteAt .txf i = if i = 0 then 0x0A else if i = 2 then 0x03 else if i = 9 then 0x0D else 0) ∧
    (∀ i, i < 262 → t.byteAt .rxb i = 0) ∧ (∀ i, i < 255 → t.byteAt .pay i = 0)

/-- `byte(i)` of R136: ABSENT from RXLEN on. -/
def received (s : State) (i : Nat) : Option Byte := if i < s.rxlen.toNat then some (s.byteAt .rxb i) else none

/-- `act(x)` of R137. -/
def actOf (x : Option Byte) : Half :=
  match x with
  | some b => b.setWidth 16
  | none => 0x0100

/-- The failure write-back of R140, but for CRC. -/
def failed (s : State) (kind : ValidationOutcome) (code : Word) (exp act : Half) (lenErr : Bool) : State :=
  { s with outcome := kind, lenErr := lenErr, plen := 0, diagExp := exp, diagAct := act, r0 := code, r1 := 0 }

/-- The checksum register after `n` bytes of a buffer from `i` on, started at 0xFFFF. -/
def registerOver (s : State) (b : Buf) (i n : Nat) : Half :=
  ((List.range n).map fun k => s.byteAt b (i + k)).foldl crcByte 0xFFFF

/-- The response frame of R90 for an address and a payload. -/
def responseFrame (address : Byte) (payload : List Byte) : List Byte :=
  let body := [0x0A, address, 0x03, BitVec.ofNat 8 payload.length] ++ payload
  let c := checksum16 body 1 (payload.length + 3)
  body ++ [c.extractLsb' 8 8, c.extractLsb' 0 8, 0x0D]

/-- The causes of a command fault, in the priority of R247 (R245). -/
def faultCause (w : Word) (s : State) (c : CommandFault) : Prop :=
  match c with
  | .illCmd => 16 ≤ w.toNat ∨ (9 ≤ w.toNat ∧ w.toNat ≤ 14)
  | .opRange =>
    (w = 1 ∧ 2 < s.a0.toNat) ∨
    (w = 2 ∧ (0xFF < s.a0.toNat ∨ 0xFFFF < s.a1.toNat ∨ 0xFFFF < s.a2.toNat)) ∨
    (w = 3 ∧ 0xFF < s.a0.toNat) ∨
    (w = 4 ∧ (0xFF < s.a0.toNat ∨ 0xFF < s.a1.toNat)) ∨
    (w = 5 ∧ 9 < s.a1.toNat) ∨
    ((w = 6 ∨ w = 7) ∧ (0xFFFF < s.a0.toNat ∨ 0xFFFF < s.a1.toNat))
  | .bufRange =>
    (w = 1 ∧ s.a0 = 0 ∧ 10 < s.a1.toNat + s.a2.toNat) ∨
    (w = 1 ∧ s.a0 = 1 ∧ (262 < s.rxlen.toNat ∨ s.rxlen.toNat < s.a1.toNat + s.a2.toNat)) ∨
    (w = 1 ∧ s.a0 = 2 ∧ s.plen.toNat < s.a1.toNat + s.a2.toNat) ∨
    (w = 3 ∧ s.a0.toNat ≤ 0xFF ∧ 262 < s.rxlen.toNat) ∨
    (w = 8 ∧ s.outcome = .success ∧ s.plen.toNat ≤ 2 * s.a0.toNat + 1)
  | .noPayload => w = 8 ∧ s.outcome ≠ .success

/-- Two states that a host cannot tell apart by PAY from PLEN on (R37). -/
def SameButHiddenPayload (s u : State) : Prop :=
  u = { s with pay := u.pay } ∧ ∀ i, i < s.plen.toNat → u.byteAt .pay i = s.byteAt .pay i

/-- An access that reads. -/
def isRead (a : Access) : Bool :=
  match a with
  | .r8 _ | .r16 _ | .r32 _ => true
  | .w8 _ _ | .w16 _ _ | .w32 _ _ | .reset => false

/-- One of the unmapped rows of R54. -/
def InUnmappedRow (off : Nat) : Prop :=
  (0x02C ≤ off ∧ off ≤ 0x03F) ∨ (0x04A ≤ off ∧ off ≤ 0x0FF) ∨ (0x206 ≤ off ∧ off ≤ 0x2FF) ∨ off = 0x3FF

/-- One of the buffer rows of R54. -/
def InBufferRow (off : Nat) : Prop :=
  (0x040 ≤ off ∧ off ≤ 0x049) ∨ (0x100 ≤ off ∧ off ≤ 0x205) ∨ (0x300 ≤ off ∧ off ≤ 0x3FE)

end Sys2Proof.Slice0

open Sys2Proof.Slice0

/-! ### Decoding -/

/-- Words written out from R84's map decode to their commands, and a few that it leaves out to none. -/
def Obligations.WordsOfTheMapDecode : Prop :=
  decode 0b00000000000000000000000000000000 = .ok .nop ∧
  decode 0b00000000000000000000000000000001 = .ok .cksum ∧
  decode 0b00000000000000000000000000000010 = .ok .build ∧
  decode 0b00000000000000000000000000000011 = .ok .parse ∧
  decode 0b00000000000000000000000000000101 = .ok .scale ∧
  decode 0b00000000000000000000000000001000 = .ok .ldw ∧
  decode 0b00000000000000000000000000001111 = .ok .rst ∧
  decode 0b00000000000000000000000000001001 = .error .reservedOp ∧
  decode 0b00000000000000000000000000011111 = .error .upperBits ∧
  decode 0b10000000000000000000000000000001 = .error .upperBits

/-- R82, R85: a word decodes to a command exactly where it is that command's word; every other word is illegal, and these
are the words with a bit in 31:4 and those with OP 9 to 14. -/
def Obligations.EveryWordIsOneCommandOrIllegal : Prop :=
  ∀ w : Word, (∀ i, decode w = .ok i ↔ encode i = w) ∧
    ((∃ e, decode w = .error e) ↔ (16 ≤ w.toNat ∨ (9 ≤ w.toNat ∧ w.toNat ≤ 14)))

/-- R54, R94: a transaction's access decodes to the transaction, for every register, every byte of every buffer, every
data value and every unmapped access. -/
def Obligations.AccessOfATransactionDecodesToIt : Prop :=
  ∀ t : Transaction, t.wf = true → decodeAccess (encodeTransaction t) = some t

/-- R54: what an access decodes to exists and has that access as its encoding, so no two transactions share one. -/
def Obligations.DecodedTransactionHasThatAccess : Prop :=
  ∀ (a : Access) (t : Transaction), decodeAccess a = some t → t.wf = true ∧ encodeTransaction t = a

/-- R53, R59, R64: the port takes exactly the offered accesses, and refuses any other by name. Which widths it takes at an
unmapped offset is the model's reading (log entry 5). -/
def Obligations.PortTakesExactlyTheOfferedAccesses : Prop :=
  ∀ (a : Access) (s : State), (decodeAccess a).isSome = a.wf ∧
    (a.wf = false → serve a s = .refused (.notATransaction a))

/-! ### Steps and the port -/

/-- R25, R82: where no fault is latched, the step of a CMD write runs the command its word decodes to, in the state whose
host has that access behind it. -/
def Obligations.StepRunsTheIssuedCommand : Prop :=
  (∀ (s : State) (rest : List Access) (w : Word) (i : Instr),
    s.script = .w32 0x000 w :: rest → decode w = .ok i → s.err = none → step s = exec i (s.setScript rest)) ∧
  (∀ (s : State) (i : Instr), s.err = none → step (s.withFetchWord 32 (encode i).toNat) = exec i s)

/-- R82: Issue. -/
def Obligations.IssueFollowsTheLatchAndTheMap : Prop :=
  ∀ (s : State) (w : Word),
    (s.err ≠ none → w = 0x0000000F → issue w s = exec .rst s) ∧
    (s.err ≠ none → w ≠ 0x0000000F → issue w s = .next s) ∧
    (s.err = none → 16 ≤ w.toNat → issue w s = .next { s with err := some .illCmd }) ∧
    (s.err = none → 9 ≤ w.toNat → w.toNat ≤ 14 → issue w s = .next { s with err := some .illCmd }) ∧
    (s.err = none →
      issue 0 s = exec .nop s ∧ issue 1 s = exec .cksum s ∧ issue 2 s = exec .build s ∧ issue 3 s = exec .parse s ∧
      issue 4 s = exec .be16 s ∧ issue 5 s = exec .scale s ∧ issue 6 s = exec .dword s ∧ issue 7 s = exec .kwh s ∧
      issue 8 s = exec .ldw s ∧ issue 15 s = exec .rst s)

/-- R53, R67: a step serves the host's next access and no other; a read answers the host once, a write never. Where the
script is empty the block stays as it is, which is the model's choice (log entry 2). -/
def Obligations.StepServesOneAccess : Prop :=
  ∀ s t : State, step s = .next t →
    (s.script = [] → t = s) ∧
    (∀ a rest, s.script = a :: rest → t.script = rest ∧
      (isRead a = true → ∃ r, t.replies = r :: s.replies) ∧ (isRead a = false → t.replies = s.replies))

/-- R55: what a register read returns, and that no read changes anything of the block. -/
def Obligations.RegisterReadsReturnTheRegister : Prop :=
  ∀ s : State,
    (∀ r : RegName, ∃ v : Word, perform (.regRead r) s = .next { s with replies := .word v :: s.replies } ∧
      v.toNat = match r with
        | .cmd => 0
        | .status =>
          (outcomeCode s.outcome).toNat + 8 * s.lenErr.toNat + 16 * s.txv.toNat + 256 * (errCode s.err).toNat
        | .a0 => s.a0.toNat
        | .a1 => s.a1.toNat
        | .a2 => s.a2.toNat
        | .r0 => s.r0.toNat
        | .r1 => s.r1.toNat
        | .crc => s.crc.toNat
        | .rxlen => s.rxlen.toNat
        | .plen => s.plen.toNat
        | .diag => 65536 * s.diagExp.toNat + s.diagAct.toNat) ∧
    (∀ (a : Access) (t : State), isRead a = true → serve a s = .next t → t = { s with replies := t.replies })

/-- R27, R30: the codes of the STATUS fields. -/
def Obligations.StatusCodesAreTheTables : Prop :=
  ∀ s : State,
    s.statusWord.extractLsb' 0 3 = (match s.outcome with
      | .success => 0 | .invalidPrefix => 1 | .addressMismatch => 2 | .invalidFunctionCode => 3
      | .missingTrailer => 4 | .checksumMismatch => 5 | .noParse => 7 : BitVec 3) ∧
    s.statusWord.extractLsb' 8 4 = (match s.err with
      | none => 0 | some .illCmd => 1 | some .opRange => 2 | some .bufRange => 3 | some .noPayload => 4 : BitVec 4) ∧
    s.statusWord.getLsbD 3 = s.lenErr ∧ s.statusWord.getLsbD 4 = s.txv ∧
    s.statusWord.extractLsb' 5 3 = 0 ∧ s.statusWord.extractLsb' 12 20 = 0

/-- R56: what a register write does, whatever STATUS.ERR is. -/
def Obligations.RegisterWritesReachOnlyTheirRegister : Prop :=
  ∀ (s : State) (w : Word),
    perform (.regWrite .a0 w) s = .next { s with a0 := w } ∧
    perform (.regWrite .a1 w) s = .next { s with a1 := w } ∧
    perform (.regWrite .a2 w) s = .next { s with a2 := w } ∧
    (∃ n : BitVec 9, n.toNat = w.toNat % 512 ∧ perform (.regWrite .rxlen w) s = .next { s with rxlen := n }) ∧
    perform (.regWrite .cmd w) s = issue w s ∧
    (∀ r, r ∈ [RegName.status, .r0, .r1, .crc, .plen, .diag] → perform (.regWrite r w) s = .next s)

/-- R57: what a buffer read returns. -/
def Obligations.BufferReadsMaskThePayload : Prop :=
  ∀ (s : State) (i : Nat),
    (i ≤ 9 → perform (.bufRead .txf i) s = .next { s with replies := .byte (s.byteAt .txf i) :: s.replies }) ∧
    (i ≤ 261 → perform (.bufRead .rxb i) s = .next { s with replies := .byte (s.byteAt .rxb i) :: s.replies }) ∧
    (i ≤ 254 → i < s.plen.toNat →
      perform (.bufRead .pay i) s = .next { s with replies := .byte (s.byteAt .pay i) :: s.replies }) ∧
    (i ≤ 254 → s.plen.toNat ≤ i → perform (.bufRead .pay i) s = .next { s with replies := .byte 0x00 :: s.replies }) ∧
    (s.Inv → 0 < s.plen.toNat → s.outcome = .success)

/-- R58: a buffer write stores one byte of RXB and changes nothing else; to TXF and PAY it is ignored. -/
def Obligations.BufferWritesStoreOneByteOfRxb : Prop :=
  ∀ (s : State) (i : Nat) (v : Byte),
    (i ≤ 261 → ∃ m : Mem, perform (.bufWrite .rxb i v) s = .next { s with rxb := m } ∧
      ∀ j, memGet (resetByte .rxb) m j = if j = i then v else s.byteAt .rxb j) ∧
    (i ≤ 9 → perform (.bufWrite .txf i v) s = .next s) ∧
    (i ≤ 254 → perform (.bufWrite .pay i v) s = .next s)

/-- R59: an access that the map does not list as allowed is harmless, and one of the wrong width, misaligned or outside the
window is no transaction. The widths at an unmapped offset are the model's reading (log entry 5). -/
def Obligations.StrayAccessesAreHarmless : Prop :=
  ∀ (s : State) (off : Nat) (v : Byte) (h : Half) (w : Word),
    (InUnmappedRow off →
      serve (.r8 off) s = .next { s with replies := .byte 0 :: s.replies } ∧ serve (.w8 off v) s = .next s) ∧
    (InUnmappedRow off → off % 4 = 0 →
      serve (.r32 off) s = .next { s with replies := .word 0 :: s.replies } ∧ serve (.w32 off w) s = .next s) ∧
    (off ∈ [0x004, 0x014, 0x018, 0x01C, 0x024, 0x028] → serve (.w32 off w) s = .next s) ∧
    ((0x040 ≤ off ∧ off ≤ 0x049) ∨ (0x300 ≤ off ∧ off ≤ 0x3FE) → serve (.w8 off v) s = .next s) ∧
    (∀ a, (a = .r16 off ∨ a = .w16 off h) → serve a s = .refused (.notATransaction a)) ∧
    (∀ a, (off % 4 ≠ 0 ∨ 0x400 ≤ off ∨ InBufferRow off) → (a = .r32 off ∨ a = .w32 off w) →
      serve a s = .refused (.notATransaction a)) ∧
    (∀ a, (off < 0x02C ∨ 0x400 ≤ off) → (a = .r8 off ∨ a = .w8 off v) → serve a s = .refused (.notATransaction a))

/-- R66: where the window sits changes nothing: a bus address reaches the offset it has from BASE, and no address outside
the window reaches the block. -/
def Obligations.OnlyTheOffsetFromBaseMatters : Prop :=
  ∀ (base address : Nat) (w : Word) (v : Byte),
    (∀ off, off < 0x400 → address = base + off →
      busRead32 base address = some (.r32 off) ∧ busWrite32 base address w = some (.w32 off w) ∧
      busRead8 base address = some (.r8 off) ∧ busWrite8 base address v = some (.w8 off v)) ∧
    (address < base ∨ base + 0x400 ≤ address →
      busRead32 base address = none ∧ busWrite32 base address w = none ∧ busRead8 base address = none ∧
      busWrite8 base address v = none)

/-! ### Reset and control -/

/-- R39: the reset table, after the RST command, after the reset input, and in the state after reset. That a reset keeps
the script and the replies is the model's choice (log entry 13). -/
def Obligations.ResetGivesTheResetTable : Prop :=
  IsReset State.reset ∧
  ∀ s : State, ∃ t, exec .rst s = .next t ∧ perform .reset s = .next t ∧ IsReset t ∧
    t.script = s.script ∧ t.replies = s.replies

/-- R190: NOP changes nothing, dropped or not. -/
def Obligations.NopChangesNothing : Prop :=
  decode 0x00000000 = .ok .nop ∧ ∀ s : State, exec .nop s = .next s ∧ issue 0x00000000 s = .next s

/-- R272: what the reset state shows. -/
def Obligations.ResetStateConsequences : Prop :=
  (∃ t, exec .parse State.reset = .next t ∧ t.outcome = .invalidPrefix ∧ t.diagWord = 0x000A0100) ∧
  exec .ldw State.reset = .next { State.reset with err := some .noPayload } ∧
  (∃ t, exec .cksum { State.reset with a0 := 0, a1 := 1, a2 := 6 } = .next t ∧ t.r0 = 0x0000441B ∧ t.crc = 0x1B44) ∧
  (∃ t, exec .build { State.reset with a0 := 0, a1 := 0, a2 := 0 } = .next t ∧
    t.byteAt .txf 7 = 0x44 ∧ t.byteAt .txf 8 = 0x1B) ∧
  (∀ i, i < 255 → perform (.bufRead .pay i) State.reset = .next { State.reset with replies := [.byte 0] })

/-! ### The Checksum Engine -/

/-- R110, R111: the bit step, bit by bit, and the byte step as eight of them. -/
def Obligations.CrcStepsShiftRightAndXor : Prop :=
  (∀ (r : Half) (k : Nat), k < 16 →
    (crcBit r).getLsbD k = ((k < 15 && r.getLsbD (k + 1)) ^^ (r.getLsbD 0 && (0xA001 : Half).getLsbD k))) ∧
  (∀ (r : Half) (b : Byte), crcByte r b = crcBit^[8] (r ^^^ b.setWidth 16))

/-- R112: the checksum of a byte range, byte by byte in ascending order, and the swap at the end. -/
def Obligations.ChecksumFoldsTheRangeAndSwaps : Prop :=
  ∀ (bytes : List Byte) (offset count : Nat), offset + count ≤ bytes.length →
    let r := ((List.range count).map fun i => bytes.getD (offset + i) 0).foldl crcByte 0xFFFF
    (checksum16 bytes offset count).toNat = (r.toNat % 256) * 256 + r.toNat / 256

/-- R61: the register's low byte goes first on the wire, so that running the register on over the two checksum bytes
empties it, from any register and over any bytes. -/
def Obligations.ChecksumBytesEmptyTheRegister : Prop :=
  ∀ (r : Half) (bytes : List Byte),
    let c := swap16 (crcRun r bytes)
    crcRun r (bytes ++ [highByte c, lowByte c]) = 0

/-- R115: CKSUM, its faults in their order, its result, and that nothing else changes. -/
def Obligations.CksumChecksTheRangeThenSums : Prop :=
  decode 0x00000001 = .ok .cksum ∧ ∀ s : State,
    (2 < s.a0.toNat → exec .cksum s = .next { s with err := some .opRange }) ∧
    (s.a0 = 1 → 262 < s.rxlen.toNat → exec .cksum s = .next { s with err := some .bufRange }) ∧
    (∀ b limit, (s.a0 = 0 ∧ b = .txf ∧ limit = 10) ∨ (s.a0 = 1 ∧ s.rxlen.toNat ≤ 262 ∧ b = .rxb ∧ limit = s.rxlen.toNat) ∨
        (s.a0 = 2 ∧ b = .pay ∧ limit = s.plen.toNat) →
      (limit < s.a1.toNat + s.a2.toNat → exec .cksum s = .next { s with err := some .bufRange }) ∧
      (s.a1.toNat + s.a2.toNat ≤ limit →
        let r := registerOver s b s.a1.toNat s.a2.toNat
        ∃ v : Word, v.toNat = (r.toNat % 256) * 256 + r.toNat / 256 ∧ exec .cksum s = .next { s with crc := r, r0 := v }))

/-! ### The Frame Codec -/

/-- R88, R131, R132: BUILD, its faults, the ten bytes, the registers, and that nothing else changes. -/
def Obligations.BuildPlacesTheRequestFrame : Prop :=
  decode 0x00000002 = .ok .build ∧ ∀ s : State,
    (0xFF < s.a0.toNat ∨ 0xFFFF < s.a1.toNat ∨ 0xFFFF < s.a2.toNat →
      exec .build s = .next { s with err := some .opRange }) ∧
    (s.a0.toNat ≤ 0xFF → s.a1.toNat ≤ 0xFFFF → s.a2.toNat ≤ 0xFFFF →
      let six : List Byte := [s.a0.setWidth 8, 0x03, s.a1.extractLsb' 8 8, s.a1.extractLsb' 0 8, s.a2.extractLsb' 8 8,
        s.a2.extractLsb' 0 8]
      let r := six.foldl crcByte 0xFFFF
      let c : Half := r.extractLsb' 0 8 ++ r.extractLsb' 8 8
      ∃ m : Mem, exec .build s = .next { s with txf := m, crc := r, r0 := c.setWidth 32, txv := true } ∧
        bytesFrom (memGet (resetByte .txf) m) 0 10 =
          [0x0A] ++ six ++ [c.extractLsb' 8 8, c.extractLsb' 0 8, 0x0D])

/-- R93, R143 (3): the frame that BUILD leaves in TXF gives back address, start and count by the loose decoder, for every
operand in range. -/
def Obligations.BuiltFrameGivesBackItsOperands : Prop :=
  ∀ s : State, s.a0.toNat ≤ 0xFF → s.a1.toNat ≤ 0xFFFF → s.a2.toNat ≤ 0xFFFF →
    ∃ t, exec .build s = .next t ∧
      looseDecode (bytesFrom (t.byteAt .txf) 0 10) = (s.a0.setWidth 8, s.a1.setWidth 16, s.a2.setWidth 16)

/-- R136, R137, R139, R140, R250: PARSE where its command is well formed. The first failing check decides, and each case
gives the whole next state. -/
def Obligations.ParseDecidesByTheFirstFailingCheck : Prop :=
  ∀ s : State, s.a0.toNat ≤ 0xFF → s.rxlen.toNat ≤ 262 →
    let byte := received s
    let exp : Byte := s.a0.setWidth 8
    (byte 0 ≠ some 0x0A → exec .parse s = .next (failed s .invalidPrefix 1 0x000A (actOf (byte 0)) false)) ∧
    (byte 0 = some 0x0A → byte 1 ≠ some exp →
      exec .parse s = .next (failed s .addressMismatch 2 (exp.setWidth 16) (actOf (byte 1)) false)) ∧
    (byte 0 = some 0x0A → byte 1 = some exp → byte 2 ≠ some 0x03 →
      exec .parse s = .next (failed s .invalidFunctionCode 3 0x0003 (actOf (byte 2)) false)) ∧
    (byte 0 = some 0x0A → byte 1 = some exp → byte 2 = some 0x03 → byte 3 = none →
      exec .parse s = .next (failed s .missingTrailer 4 0x000D 0x0100 true)) ∧
    (∀ l : Byte, byte 0 = some 0x0A → byte 1 = some exp → byte 2 = some 0x03 → byte 3 = some l →
      (s.rxlen.toNat ≠ l.toNat + 7 →
        exec .parse s = .next (failed s .missingTrailer 4 0x000D (actOf (byte (l.toNat + 6))) true)) ∧
      (s.rxlen.toNat = l.toNat + 7 → s.byteAt .rxb (l.toNat + 6) ≠ 0x0D →
        exec .parse s =
          .next (failed s .missingTrailer 4 0x000D ((s.byteAt .rxb (l.toNat + 6)).setWidth 16) false)) ∧
      (s.rxlen.toNat = l.toNat + 7 → s.byteAt .rxb (l.toNat + 6) = 0x0D →
        let r := registerOver s .rxb 1 (l.toNat + 3)
        let c : Half := r.extractLsb' 0 8 ++ r.extractLsb' 8 8
        let rx : Half := s.byteAt .rxb (l.toNat + 4) ++ s.byteAt .rxb (l.toNat + 5)
        (c ≠ rx → exec .parse s = .next { failed s .checksumMismatch 5 c rx false with crc := r }) ∧
        (c = rx → ∃ m : Mem,
          exec .parse s = .next { s with
            outcome := .success, lenErr := false, plen := l, diagExp := c, diagAct := rx, r0 := 0,
            r1 := l.setWidth 32, crc := r, pay := m } ∧
          ∀ i, memGet (resetByte .pay) m i =
            if i < l.toNat then s.byteAt .rxb (4 + i) else s.byteAt .pay i)))

/-- R141: the command faults of PARSE, OPRANGE first. -/
def Obligations.ParseFaultsBeforeAnyCheck : Prop :=
  decode 0x00000003 = .ok .parse ∧ ∀ s : State,
    (0xFF < s.a0.toNat → exec .parse s = .next { s with err := some .opRange }) ∧
    (s.a0.toNat ≤ 0xFF → 262 < s.rxlen.toNat → exec .parse s = .next { s with err := some .bufRange })

/-- R90, R143 (4): PARSE succeeds exactly on the response frames of the expected address, and then the host reads the
frame's payload. -/
def Obligations.ParseSucceedsExactlyOnResponseFrames : Prop :=
  ∀ s : State, s.a0.toNat ≤ 0xFF → s.rxlen.toNat ≤ 262 →
    ∃ t, exec .parse s = .next t ∧
      (t.outcome = .success ↔ ∃ payload : List Byte, payload.length ≤ 255 ∧
        bytesFrom (s.byteAt .rxb) 0 s.rxlen.toNat = responseFrame (s.a0.setWidth 8) payload) ∧
      (∀ payload : List Byte, payload.length ≤ 255 →
        bytesFrom (s.byteAt .rxb) 0 s.rxlen.toNat = responseFrame (s.a0.setWidth 8) payload →
        t.plen.toNat = payload.length ∧ bytesFrom (t.hostByte .pay) 0 payload.length = payload)

/-- R143 (2): where PARSE succeeds, the same response with one payload byte changed, by one bit or more, ends in
ChecksumMismatch. -/
def Obligations.ChangedPayloadByteIsDetected : Prop :=
  ∀ (s t : State) (i : Nat) (v : Byte),
    s.a0.toNat ≤ 0xFF → s.rxlen.toNat ≤ 262 → exec .parse s = .next t → t.outcome = .success → i < t.plen.toNat →
    v ≠ s.byteAt .rxb (4 + i) →
    ∃ u, exec .parse { s with rxb := memPut (resetByte .rxb) s.rxb (4 + i) v } = .next u ∧
      u.outcome = .checksumMismatch

/-- R140: a failed response exposes no payload, neither its own nor an earlier one. -/
def Obligations.FailedParseExposesNoPayload : Prop :=
  ∀ s t : State, s.a0.toNat ≤ 0xFF → s.rxlen.toNat ≤ 262 → exec .parse s = .next t → t.outcome ≠ .success →
    (∀ i, i < 255 → perform (.bufRead .pay i) t = .next { t with replies := .byte 0 :: t.replies }) ∧
    exec .ldw t = .next { t with err := some .noPayload }

/-- R36, R136: a byte of RXB from RXLEN on takes no part in any command's result. -/
def Obligations.StaleReceiveBytesDecideNothing : Prop :=
  ∀ (i : Instr) (s t : State) (m : Mem), i ≠ .rst →
    (∀ k, k < s.rxlen.toNat → memGet (resetByte .rxb) m k = s.byteAt .rxb k) →
    exec i s = .next t → exec i { s with rxb := m } = .next { t with rxb := m }

/-- R37: the stored bytes of PAY from PLEN on are not observable: two states that differ only there answer every access
alike, and stay so. -/
def Obligations.HiddenPayloadIsNeverObserved : Prop :=
  ∀ s u t : State, SameButHiddenPayload s u → step s = .next t →
    ∃ v, step u = .next v ∧ SameButHiddenPayload t v ∧ v.replies = t.replies

/-! ### The Field Decoder -/

/-- R161: BE16. -/
def Obligations.Be16CombinesTwoBytes : Prop :=
  decode 0x00000004 = .ok .be16 ∧ ∀ s : State,
    (0xFF < s.a0.toNat ∨ 0xFF < s.a1.toNat → exec .be16 s = .next { s with err := some .opRange }) ∧
    (s.a0.toNat ≤ 0xFF → s.a1.toNat ≤ 0xFF →
      ∃ v : Word, v.toNat = s.a0.toNat * 256 + s.a1.toNat ∧ exec .be16 s = .next { s with r0 := v })

/-- R162, R164, R165: SCALE, by powers of ten. -/
def Obligations.ScaleDividesByThePowerOfTen : Prop :=
  decode 0x00000005 = .ok .scale ∧ ∀ s : State,
    (9 < s.a1.toNat → exec .scale s = .next { s with err := some .opRange }) ∧
    (s.a1.toNat ≤ 9 → ∃ q f : Word,
      q.toNat = s.a0.toNat / 10 ^ s.a1.toNat ∧ f.toNat = s.a0.toNat % 10 ^ s.a1.toNat ∧
      exec .scale s = .next { s with r0 := q, r1 := f })

/-- R169, R170: DWORD, an addition with carry. -/
def Obligations.DwordShiftsByEightAndAdds : Prop :=
  decode 0x00000006 = .ok .dword ∧ ∀ s : State,
    (0xFFFF < s.a0.toNat ∨ 0xFFFF < s.a1.toNat → exec .dword s = .next { s with err := some .opRange }) ∧
    (s.a0.toNat ≤ 0xFFFF → s.a1.toNat ≤ 0xFFFF →
      ∃ v : Word, v.toNat = s.a0.toNat * 256 + s.a1.toNat ∧ v.toNat ≤ 0x0100FEFF ∧
        exec .dword s = .next { s with r0 := v })

/-- R172, R173: KWH. -/
def Obligations.KwhMultipliesByAThousandAndAdds : Prop :=
  decode 0x00000007 = .ok .kwh ∧ ∀ s : State,
    (0xFFFF < s.a0.toNat ∨ 0xFFFF < s.a1.toNat → exec .kwh s = .next { s with err := some .opRange }) ∧
    (s.a0.toNat ≤ 0xFFFF → s.a1.toNat ≤ 0xFFFF →
      ∃ v : Word, v.toNat = s.a0.toNat * 1000 + s.a1.toNat ∧ v.toNat ≤ 65600535 ∧
        exec .kwh s = .next { s with r0 := v })

/-- R175: LDW, its faults in their order and the word it loads. -/
def Obligations.LdwLoadsAWholePayloadWord : Prop :=
  decode 0x00000008 = .ok .ldw ∧ ∀ s : State,
    (s.outcome ≠ .success → exec .ldw s = .next { s with err := some .noPayload }) ∧
    (s.outcome = .success → s.plen.toNat ≤ 2 * s.a0.toNat + 1 → exec .ldw s = .next { s with err := some .bufRange }) ∧
    (s.outcome = .success → 2 * s.a0.toNat + 1 < s.plen.toNat →
      ∃ v : Word, v.toNat = (s.byteAt .pay (2 * s.a0.toNat)).toNat * 256 + (s.byteAt .pay (2 * s.a0.toNat + 1)).toNat ∧
        exec .ldw s = .next { s with r0 := v })

/-! ### Whole-machine rules -/

/-- R52, R281: every command answers a next state, from every state: no primitive is applied out of bounds and none
hangs. -/
def Obligations.EveryCommandAnswersANextState : Prop :=
  ∀ (i : Instr) (s : State), ∃ t, exec i s = .next t

/-- R246: a command fault writes STATUS.ERR and nothing else. -/
def Obligations.CommandFaultsArePrecise : Prop :=
  ∀ (w : Word) (s t : State) (c : CommandFault), s.err = none → issue w s = .next t → t.err = some c →
    t = { s with err := some c }

/-- R245, R247: a CMD write latches a fault exactly for its causes, in the fixed priority. -/
def Obligations.FaultsAreLatchedExactlyForTheirCauses : Prop :=
  ∀ (w : Word) (s : State) (c : CommandFault), s.err = none →
    ((∃ t, issue w s = .next t ∧ t.err = some c) ↔ faultCause w s c)

/-- R30, R248, R252, R270: a latched fault stays the first one until RST or the reset input; where it does not stay, the
step served one of those two and left the reset state. That this next state keeps the rest of the script and the replies
is the model's choice (log entry 13). -/
def Obligations.LatchedFaultStaysUntilReset : Prop :=
  ∀ (s t : State) (c : CommandFault), s.err = some c → step s = .next t →
    t.err = some c ∨
      ∃ a rest, s.script = a :: rest ∧ (a = .reset ∨ a = .w32 0x000 0x0000000F) ∧
        t = { State.reset with script := rest, replies := s.replies }

/-- R192: a command dropped by the latch changes no state of the block, while every other access works as before; R270:
the reset input resets in this state too. That it keeps the script and the replies is the model's choice (log
entry 13). -/
def Obligations.LatchedFaultDropsOnlyCommands : Prop :=
  ∀ (s : State) (c : CommandFault), s.err = some c →
    (∀ w : Word, w ≠ 0x0000000F → perform (.regWrite .cmd w) s = .next s) ∧
    (∀ (t : Transaction) (u : State), (∀ w, t ≠ .regWrite .cmd w) → t ≠ .regRead .status → t ≠ .reset →
      perform t { s with err := none } = .next u → perform t s = .next { u with err := some c }) ∧
    perform (.regRead .status) s = .next { s with replies := .word s.statusWord :: s.replies } ∧
    perform .reset s = .next { State.reset with script := s.script, replies := s.replies }

/-- R20, R23: which accesses change which state, for every access but the two resets. -/
def Obligations.OnlyTheseAccessesChangeEachState : Prop :=
  ∀ (s t : State) (a : Access) (rest : List Access), s.script = a :: rest → step s = .next t → a ≠ .reset →
    a ≠ .w32 0x000 0x0000000F →
    (t.a0 ≠ s.a0 → ∃ w, a = .w32 0x008 w) ∧ (t.a1 ≠ s.a1 → ∃ w, a = .w32 0x00C w) ∧
    (t.a2 ≠ s.a2 → ∃ w, a = .w32 0x010 w) ∧ (t.rxlen ≠ s.rxlen → ∃ w, a = .w32 0x020 w) ∧
    (t.rxb ≠ s.rxb → ∃ i v, i < 262 ∧ a = .w8 (0x100 + i) v) ∧
    (t.txf ≠ s.txf ∨ t.txv ≠ s.txv → a = .w32 0x000 2) ∧
    (t.outcome ≠ s.outcome ∨ t.lenErr ≠ s.lenErr ∨ t.plen ≠ s.plen ∨ t.diagExp ≠ s.diagExp ∨ t.diagAct ≠ s.diagAct ∨
      t.pay ≠ s.pay → a = .w32 0x000 3) ∧
    (t.crc ≠ s.crc → a = .w32 0x000 1 ∨ a = .w32 0x000 2 ∨ a = .w32 0x000 3) ∧
    (t.r1 ≠ s.r1 → a = .w32 0x000 3 ∨ a = .w32 0x000 5) ∧
    (t.r0 ≠ s.r0 → ∃ w : Word, 1 ≤ w.toNat ∧ w.toNat ≤ 8 ∧ a = .w32 0x000 w) ∧
    (t.err ≠ s.err → ∃ w : Word, a = .w32 0x000 w)

/-- The frame of the commands that store no byte (R23, R51): only the registers their rules name and STATUS.ERR may
change, and every byte of every buffer reads as before. -/
def Obligations.RegisterCommandsKeepTheRest : Prop :=
  ∀ (i : Instr) (s t : State), exec i s = .next t →
    (i = .nop → t = s) ∧
    (i = .be16 ∨ i = .dword ∨ i = .kwh ∨ i = .ldw → t = { s with r0 := t.r0, err := t.err }) ∧
    (i = .scale → t = { s with r0 := t.r0, r1 := t.r1, err := t.err }) ∧
    (i = .cksum → t = { s with r0 := t.r0, crc := t.crc, err := t.err }) ∧
    (i ∈ [Instr.nop, .be16, .dword, .kwh, .ldw, .scale, .cksum] → ∀ b j, t.byteAt b j = s.byteAt b j)

/-- The frame of BUILD (R23, R51): every byte but TXF[0..9] reads as before, all bytes where it faults, and only the state
its rule names and STATUS.ERR may change. -/
def Obligations.BuildKeepsTheRest : Prop :=
  ∀ s t : State, exec .build s = .next t →
    t = { s with txf := t.txf, txv := t.txv, crc := t.crc, r0 := t.r0, err := t.err } ∧
    (∀ b j, ¬(b = .txf ∧ j < 10) → t.byteAt b j = s.byteAt b j) ∧
    (0xFF < s.a0.toNat ∨ 0xFFFF < s.a1.toNat ∨ 0xFFFF < s.a2.toNat → ∀ b j, t.byteAt b j = s.byteAt b j)

/-- The frame of PARSE (R23, R51, R139, R140): it stores PAY[0 .. PLEN−1] on success and no byte otherwise, and only the
state its rule names and STATUS.ERR may change. -/
def Obligations.ParseKeepsTheRest : Prop :=
  ∀ s t : State, exec .parse s = .next t →
    t = { s with
      outcome := t.outcome, lenErr := t.lenErr, plen := t.plen, diagExp := t.diagExp, diagAct := t.diagAct,
      r0 := t.r0, r1 := t.r1, crc := t.crc, pay := t.pay, err := t.err } ∧
    (∀ b j, ¬(b = .pay ∧ j < t.plen.toNat) → t.byteAt b j = s.byteAt b j) ∧
    (0xFF < s.a0.toNat ∨ 262 < s.rxlen.toNat ∨ t.outcome ≠ .success → ∀ b j, t.byteAt b j = s.byteAt b j)

/-- Every step keeps the invariant: buffers canonical, a sendable TXF is a built frame (R134), an unbuilt one the template,
a payload only with Success (R57), and the STATUS and DIAG fields agree (R28, R139, R241). -/
def Obligations.EveryStepKeepsTheInvariant : Prop :=
  ∀ s t : State, s.Inv → step s = .next t → t.Inv

/-- The invariant holds after reset. -/
def Obligations.ResetMeetsTheInvariant : Prop := State.reset.Inv

/-! ### Scripts and the host's side -/

/-- R96: a pseudo-statement writes its operands and issues its command; LOADRX stores the bytes and their number. -/
def Obligations.PseudoStatementsRunAsTheirExpansions : Prop :=
  ∀ (s : State) (x y z : Word) (rest : List Access), s.err = none →
    core.run 4 { s with script := Script.build x y z ++ rest } =
      exec .build { s with a0 := x, a1 := y, a2 := z, script := rest } ∧
    (∀ b, core.run 4 { s with script := Script.cksum b y z ++ rest } =
      exec .cksum { s with a0 := (match b with | .txf => 0 | .rxb => 1 | .pay => 2), a1 := y, a2 := z, script := rest }) ∧
    core.run 2 { s with script := Script.parse x ++ rest } = exec .parse { s with a0 := x, script := rest } ∧
    core.run 2 { s with script := Script.ldw x ++ rest } = exec .ldw { s with a0 := x, script := rest } ∧
    core.run 3 { s with script := Script.be16 x y ++ rest } = exec .be16 { s with a0 := x, a1 := y, script := rest } ∧
    core.run 3 { s with script := Script.scale x y ++ rest } = exec .scale { s with a0 := x, a1 := y, script := rest } ∧
    core.run 3 { s with script := Script.dword x y ++ rest } = exec .dword { s with a0 := x, a1 := y, script := rest } ∧
    core.run 3 { s with script := Script.kwh x y ++ rest } = exec .kwh { s with a0 := x, a1 := y, script := rest } ∧
    (∀ bytes : List Byte, bytes.length ≤ 262 → ∃ m : Mem,
      core.run (bytes.length + 1) { s with script := Script.loadRx bytes ++ rest } =
        .next { s with rxb := m, rxlen := BitVec.ofNat 9 bytes.length, script := rest } ∧
      ∀ i, memGet (resetByte .rxb) m i = bytes.getD i (s.byteAt .rxb i))

/-- R204: on a channel that yields nothing, the host's read loop times out after exactly the threshold of iterations, with
no byte, and not before. -/
def Obligations.SilentChannelTimesOutAtTheThreshold : Prop :=
  ∀ expected threshold n : Nat, 0 < expected → 0 < threshold →
    HostContext.exchangeRead expected threshold (List.replicate n none) =
      if threshold ≤ n then some ⟨[], some (.timeout 0), threshold⟩ else none
end

