-- ==== Sys2Proof/Laws/State.lean ====
section
/-! SUPPORT. Each field after each named update of `Machine/Ops.lean`. -/

namespace Sys2Proof.Machine

variable (s : State)

/-! ### `State.setR0` -/

@[simp] theorem State.setR0_a0 (v : Word) : (s.setR0 v).a0 = s.a0 := rfl
@[simp] theorem State.setR0_a1 (v : Word) : (s.setR0 v).a1 = s.a1 := rfl
@[simp] theorem State.setR0_a2 (v : Word) : (s.setR0 v).a2 = s.a2 := rfl
@[simp] theorem State.setR0_r0 (v : Word) : (s.setR0 v).r0 = v := rfl
@[simp] theorem State.setR0_r1 (v : Word) : (s.setR0 v).r1 = s.r1 := rfl
@[simp] theorem State.setR0_outcome (v : Word) : (s.setR0 v).outcome = s.outcome := rfl
@[simp] theorem State.setR0_lenErr (v : Word) : (s.setR0 v).lenErr = s.lenErr := rfl
@[simp] theorem State.setR0_txv (v : Word) : (s.setR0 v).txv = s.txv := rfl
@[simp] theorem State.setR0_err (v : Word) : (s.setR0 v).err = s.err := rfl
@[simp] theorem State.setR0_crc (v : Word) : (s.setR0 v).crc = s.crc := rfl
@[simp] theorem State.setR0_rxlen (v : Word) : (s.setR0 v).rxlen = s.rxlen := rfl
@[simp] theorem State.setR0_plen (v : Word) : (s.setR0 v).plen = s.plen := rfl
@[simp] theorem State.setR0_diagExp (v : Word) : (s.setR0 v).diagExp = s.diagExp := rfl
@[simp] theorem State.setR0_diagAct (v : Word) : (s.setR0 v).diagAct = s.diagAct := rfl
@[simp] theorem State.setR0_txf (v : Word) : (s.setR0 v).txf = s.txf := rfl
@[simp] theorem State.setR0_rxb (v : Word) : (s.setR0 v).rxb = s.rxb := rfl
@[simp] theorem State.setR0_pay (v : Word) : (s.setR0 v).pay = s.pay := rfl
@[simp] theorem State.setR0_script (v : Word) : (s.setR0 v).script = s.script := rfl
@[simp] theorem State.setR0_replies (v : Word) : (s.setR0 v).replies = s.replies := rfl

/-! ### `State.setR1` -/

@[simp] theorem State.setR1_a0 (v : Word) : (s.setR1 v).a0 = s.a0 := rfl
@[simp] theorem State.setR1_a1 (v : Word) : (s.setR1 v).a1 = s.a1 := rfl
@[simp] theorem State.setR1_a2 (v : Word) : (s.setR1 v).a2 = s.a2 := rfl
@[simp] theorem State.setR1_r0 (v : Word) : (s.setR1 v).r0 = s.r0 := rfl
@[simp] theorem State.setR1_r1 (v : Word) : (s.setR1 v).r1 = v := rfl
@[simp] theorem State.setR1_outcome (v : Word) : (s.setR1 v).outcome = s.outcome := rfl
@[simp] theorem State.setR1_lenErr (v : Word) : (s.setR1 v).lenErr = s.lenErr := rfl
@[simp] theorem State.setR1_txv (v : Word) : (s.setR1 v).txv = s.txv := rfl
@[simp] theorem State.setR1_err (v : Word) : (s.setR1 v).err = s.err := rfl
@[simp] theorem State.setR1_crc (v : Word) : (s.setR1 v).crc = s.crc := rfl
@[simp] theorem State.setR1_rxlen (v : Word) : (s.setR1 v).rxlen = s.rxlen := rfl
@[simp] theorem State.setR1_plen (v : Word) : (s.setR1 v).plen = s.plen := rfl
@[simp] theorem State.setR1_diagExp (v : Word) : (s.setR1 v).diagExp = s.diagExp := rfl
@[simp] theorem State.setR1_diagAct (v : Word) : (s.setR1 v).diagAct = s.diagAct := rfl
@[simp] theorem State.setR1_txf (v : Word) : (s.setR1 v).txf = s.txf := rfl
@[simp] theorem State.setR1_rxb (v : Word) : (s.setR1 v).rxb = s.rxb := rfl
@[simp] theorem State.setR1_pay (v : Word) : (s.setR1 v).pay = s.pay := rfl
@[simp] theorem State.setR1_script (v : Word) : (s.setR1 v).script = s.script := rfl
@[simp] theorem State.setR1_replies (v : Word) : (s.setR1 v).replies = s.replies := rfl

/-! ### `State.setCrc` -/

@[simp] theorem State.setCrc_a0 (r : Half) : (s.setCrc r).a0 = s.a0 := rfl
@[simp] theorem State.setCrc_a1 (r : Half) : (s.setCrc r).a1 = s.a1 := rfl
@[simp] theorem State.setCrc_a2 (r : Half) : (s.setCrc r).a2 = s.a2 := rfl
@[simp] theorem State.setCrc_r0 (r : Half) : (s.setCrc r).r0 = s.r0 := rfl
@[simp] theorem State.setCrc_r1 (r : Half) : (s.setCrc r).r1 = s.r1 := rfl
@[simp] theorem State.setCrc_outcome (r : Half) : (s.setCrc r).outcome = s.outcome := rfl
@[simp] theorem State.setCrc_lenErr (r : Half) : (s.setCrc r).lenErr = s.lenErr := rfl
@[simp] theorem State.setCrc_txv (r : Half) : (s.setCrc r).txv = s.txv := rfl
@[simp] theorem State.setCrc_err (r : Half) : (s.setCrc r).err = s.err := rfl
@[simp] theorem State.setCrc_crc (r : Half) : (s.setCrc r).crc = r := rfl
@[simp] theorem State.setCrc_rxlen (r : Half) : (s.setCrc r).rxlen = s.rxlen := rfl
@[simp] theorem State.setCrc_plen (r : Half) : (s.setCrc r).plen = s.plen := rfl
@[simp] theorem State.setCrc_diagExp (r : Half) : (s.setCrc r).diagExp = s.diagExp := rfl
@[simp] theorem State.setCrc_diagAct (r : Half) : (s.setCrc r).diagAct = s.diagAct := rfl
@[simp] theorem State.setCrc_txf (r : Half) : (s.setCrc r).txf = s.txf := rfl
@[simp] theorem State.setCrc_rxb (r : Half) : (s.setCrc r).rxb = s.rxb := rfl
@[simp] theorem State.setCrc_pay (r : Half) : (s.setCrc r).pay = s.pay := rfl
@[simp] theorem State.setCrc_script (r : Half) : (s.setCrc r).script = s.script := rfl
@[simp] theorem State.setCrc_replies (r : Half) : (s.setCrc r).replies = s.replies := rfl

/-! ### `State.setTxv` -/

@[simp] theorem State.setTxv_a0 : (s.setTxv).a0 = s.a0 := rfl
@[simp] theorem State.setTxv_a1 : (s.setTxv).a1 = s.a1 := rfl
@[simp] theorem State.setTxv_a2 : (s.setTxv).a2 = s.a2 := rfl
@[simp] theorem State.setTxv_r0 : (s.setTxv).r0 = s.r0 := rfl
@[simp] theorem State.setTxv_r1 : (s.setTxv).r1 = s.r1 := rfl
@[simp] theorem State.setTxv_outcome : (s.setTxv).outcome = s.outcome := rfl
@[simp] theorem State.setTxv_lenErr : (s.setTxv).lenErr = s.lenErr := rfl
@[simp] theorem State.setTxv_txv : (s.setTxv).txv = true := rfl
@[simp] theorem State.setTxv_err : (s.setTxv).err = s.err := rfl
@[simp] theorem State.setTxv_crc : (s.setTxv).crc = s.crc := rfl
@[simp] theorem State.setTxv_rxlen : (s.setTxv).rxlen = s.rxlen := rfl
@[simp] theorem State.setTxv_plen : (s.setTxv).plen = s.plen := rfl
@[simp] theorem State.setTxv_diagExp : (s.setTxv).diagExp = s.diagExp := rfl
@[simp] theorem State.setTxv_diagAct : (s.setTxv).diagAct = s.diagAct := rfl
@[simp] theorem State.setTxv_txf : (s.setTxv).txf = s.txf := rfl
@[simp] theorem State.setTxv_rxb : (s.setTxv).rxb = s.rxb := rfl
@[simp] theorem State.setTxv_pay : (s.setTxv).pay = s.pay := rfl
@[simp] theorem State.setTxv_script : (s.setTxv).script = s.script := rfl
@[simp] theorem State.setTxv_replies : (s.setTxv).replies = s.replies := rfl

/-! ### `State.setVerdict` -/

@[simp] theorem State.setVerdict_a0 (o : ValidationOutcome) (l : Bool) (n : BitVec 8) (e a : Half) : (s.setVerdict o l n e a).a0 = s.a0 := rfl
@[simp] theorem State.setVerdict_a1 (o : ValidationOutcome) (l : Bool) (n : BitVec 8) (e a : Half) : (s.setVerdict o l n e a).a1 = s.a1 := rfl
@[simp] theorem State.setVerdict_a2 (o : ValidationOutcome) (l : Bool) (n : BitVec 8) (e a : Half) : (s.setVerdict o l n e a).a2 = s.a2 := rfl
@[simp] theorem State.setVerdict_r0 (o : ValidationOutcome) (l : Bool) (n : BitVec 8) (e a : Half) : (s.setVerdict o l n e a).r0 = s.r0 := rfl
@[simp] theorem State.setVerdict_r1 (o : ValidationOutcome) (l : Bool) (n : BitVec 8) (e a : Half) : (s.setVerdict o l n e a).r1 = s.r1 := rfl
@[simp] theorem State.setVerdict_outcome (o : ValidationOutcome) (l : Bool) (n : BitVec 8) (e a : Half) : (s.setVerdict o l n e a).outcome = o := rfl
@[simp] theorem State.setVerdict_lenErr (o : ValidationOutcome) (l : Bool) (n : BitVec 8) (e a : Half) : (s.setVerdict o l n e a).lenErr = l := rfl
@[simp] theorem State.setVerdict_txv (o : ValidationOutcome) (l : Bool) (n : BitVec 8) (e a : Half) : (s.setVerdict o l n e a).txv = s.txv := rfl
@[simp] theorem State.setVerdict_err (o : ValidationOutcome) (l : Bool) (n : BitVec 8) (e a : Half) : (s.setVerdict o l n e a).err = s.err := rfl
@[simp] theorem State.setVerdict_crc (o : ValidationOutcome) (l : Bool) (n : BitVec 8) (e a : Half) : (s.setVerdict o l n e a).crc = s.crc := rfl
@[simp] theorem State.setVerdict_rxlen (o : ValidationOutcome) (l : Bool) (n : BitVec 8) (e a : Half) : (s.setVerdict o l n e a).rxlen = s.rxlen := rfl
@[simp] theorem State.setVerdict_plen (o : ValidationOutcome) (l : Bool) (n : BitVec 8) (e a : Half) : (s.setVerdict o l n e a).plen = n := rfl
@[simp] theorem State.setVerdict_diagExp (o : ValidationOutcome) (l : Bool) (n : BitVec 8) (e a : Half) : (s.setVerdict o l n e a).diagExp = e := rfl
@[simp] theorem State.setVerdict_diagAct (o : ValidationOutcome) (l : Bool) (n : BitVec 8) (e a : Half) : (s.setVerdict o l n e a).diagAct = a := rfl
@[simp] theorem State.setVerdict_txf (o : ValidationOutcome) (l : Bool) (n : BitVec 8) (e a : Half) : (s.setVerdict o l n e a).txf = s.txf := rfl
@[simp] theorem State.setVerdict_rxb (o : ValidationOutcome) (l : Bool) (n : BitVec 8) (e a : Half) : (s.setVerdict o l n e a).rxb = s.rxb := rfl
@[simp] theorem State.setVerdict_pay (o : ValidationOutcome) (l : Bool) (n : BitVec 8) (e a : Half) : (s.setVerdict o l n e a).pay = s.pay := rfl
@[simp] theorem State.setVerdict_script (o : ValidationOutcome) (l : Bool) (n : BitVec 8) (e a : Half) : (s.setVerdict o l n e a).script = s.script := rfl
@[simp] theorem State.setVerdict_replies (o : ValidationOutcome) (l : Bool) (n : BitVec 8) (e a : Half) : (s.setVerdict o l n e a).replies = s.replies := rfl

/-! ### `State.latch` -/

@[simp] theorem State.latch_a0 (c : CommandFault) : (s.latch c).a0 = s.a0 := rfl
@[simp] theorem State.latch_a1 (c : CommandFault) : (s.latch c).a1 = s.a1 := rfl
@[simp] theorem State.latch_a2 (c : CommandFault) : (s.latch c).a2 = s.a2 := rfl
@[simp] theorem State.latch_r0 (c : CommandFault) : (s.latch c).r0 = s.r0 := rfl
@[simp] theorem State.latch_r1 (c : CommandFault) : (s.latch c).r1 = s.r1 := rfl
@[simp] theorem State.latch_outcome (c : CommandFault) : (s.latch c).outcome = s.outcome := rfl
@[simp] theorem State.latch_lenErr (c : CommandFault) : (s.latch c).lenErr = s.lenErr := rfl
@[simp] theorem State.latch_txv (c : CommandFault) : (s.latch c).txv = s.txv := rfl
@[simp] theorem State.latch_err (c : CommandFault) : (s.latch c).err = some c := rfl
@[simp] theorem State.latch_crc (c : CommandFault) : (s.latch c).crc = s.crc := rfl
@[simp] theorem State.latch_rxlen (c : CommandFault) : (s.latch c).rxlen = s.rxlen := rfl
@[simp] theorem State.latch_plen (c : CommandFault) : (s.latch c).plen = s.plen := rfl
@[simp] theorem State.latch_diagExp (c : CommandFault) : (s.latch c).diagExp = s.diagExp := rfl
@[simp] theorem State.latch_diagAct (c : CommandFault) : (s.latch c).diagAct = s.diagAct := rfl
@[simp] theorem State.latch_txf (c : CommandFault) : (s.latch c).txf = s.txf := rfl
@[simp] theorem State.latch_rxb (c : CommandFault) : (s.latch c).rxb = s.rxb := rfl
@[simp] theorem State.latch_pay (c : CommandFault) : (s.latch c).pay = s.pay := rfl
@[simp] theorem State.latch_script (c : CommandFault) : (s.latch c).script = s.script := rfl
@[simp] theorem State.latch_replies (c : CommandFault) : (s.latch c).replies = s.replies := rfl

/-! ### `State.resetBlock` -/

@[simp] theorem State.resetBlock_a0 : (s.resetBlock).a0 = State.reset.a0 := rfl
@[simp] theorem State.resetBlock_a1 : (s.resetBlock).a1 = State.reset.a1 := rfl
@[simp] theorem State.resetBlock_a2 : (s.resetBlock).a2 = State.reset.a2 := rfl
@[simp] theorem State.resetBlock_r0 : (s.resetBlock).r0 = State.reset.r0 := rfl
@[simp] theorem State.resetBlock_r1 : (s.resetBlock).r1 = State.reset.r1 := rfl
@[simp] theorem State.resetBlock_outcome : (s.resetBlock).outcome = State.reset.outcome := rfl
@[simp] theorem State.resetBlock_lenErr : (s.resetBlock).lenErr = State.reset.lenErr := rfl
@[simp] theorem State.resetBlock_txv : (s.resetBlock).txv = State.reset.txv := rfl
@[simp] theorem State.resetBlock_err : (s.resetBlock).err = State.reset.err := rfl
@[simp] theorem State.resetBlock_crc : (s.resetBlock).crc = State.reset.crc := rfl
@[simp] theorem State.resetBlock_rxlen : (s.resetBlock).rxlen = State.reset.rxlen := rfl
@[simp] theorem State.resetBlock_plen : (s.resetBlock).plen = State.reset.plen := rfl
@[simp] theorem State.resetBlock_diagExp : (s.resetBlock).diagExp = State.reset.diagExp := rfl
@[simp] theorem State.resetBlock_diagAct : (s.resetBlock).diagAct = State.reset.diagAct := rfl
@[simp] theorem State.resetBlock_txf : (s.resetBlock).txf = State.reset.txf := rfl
@[simp] theorem State.resetBlock_rxb : (s.resetBlock).rxb = State.reset.rxb := rfl
@[simp] theorem State.resetBlock_pay : (s.resetBlock).pay = State.reset.pay := rfl
@[simp] theorem State.resetBlock_script : (s.resetBlock).script = s.script := rfl
@[simp] theorem State.resetBlock_replies : (s.resetBlock).replies = s.replies := rfl

/-! ### `State.setScript` -/

@[simp] theorem State.setScript_a0 (l : List Access) : (s.setScript l).a0 = s.a0 := rfl
@[simp] theorem State.setScript_a1 (l : List Access) : (s.setScript l).a1 = s.a1 := rfl
@[simp] theorem State.setScript_a2 (l : List Access) : (s.setScript l).a2 = s.a2 := rfl
@[simp] theorem State.setScript_r0 (l : List Access) : (s.setScript l).r0 = s.r0 := rfl
@[simp] theorem State.setScript_r1 (l : List Access) : (s.setScript l).r1 = s.r1 := rfl
@[simp] theorem State.setScript_outcome (l : List Access) : (s.setScript l).outcome = s.outcome := rfl
@[simp] theorem State.setScript_lenErr (l : List Access) : (s.setScript l).lenErr = s.lenErr := rfl
@[simp] theorem State.setScript_txv (l : List Access) : (s.setScript l).txv = s.txv := rfl
@[simp] theorem State.setScript_err (l : List Access) : (s.setScript l).err = s.err := rfl
@[simp] theorem State.setScript_crc (l : List Access) : (s.setScript l).crc = s.crc := rfl
@[simp] theorem State.setScript_rxlen (l : List Access) : (s.setScript l).rxlen = s.rxlen := rfl
@[simp] theorem State.setScript_plen (l : List Access) : (s.setScript l).plen = s.plen := rfl
@[simp] theorem State.setScript_diagExp (l : List Access) : (s.setScript l).diagExp = s.diagExp := rfl
@[simp] theorem State.setScript_diagAct (l : List Access) : (s.setScript l).diagAct = s.diagAct := rfl
@[simp] theorem State.setScript_txf (l : List Access) : (s.setScript l).txf = s.txf := rfl
@[simp] theorem State.setScript_rxb (l : List Access) : (s.setScript l).rxb = s.rxb := rfl
@[simp] theorem State.setScript_pay (l : List Access) : (s.setScript l).pay = s.pay := rfl
@[simp] theorem State.setScript_script (l : List Access) : (s.setScript l).script = l := rfl
@[simp] theorem State.setScript_replies (l : List Access) : (s.setScript l).replies = s.replies := rfl

/-! ### `State.answer` -/

@[simp] theorem State.answer_a0 (r : Reply) : (s.answer r).a0 = s.a0 := rfl
@[simp] theorem State.answer_a1 (r : Reply) : (s.answer r).a1 = s.a1 := rfl
@[simp] theorem State.answer_a2 (r : Reply) : (s.answer r).a2 = s.a2 := rfl
@[simp] theorem State.answer_r0 (r : Reply) : (s.answer r).r0 = s.r0 := rfl
@[simp] theorem State.answer_r1 (r : Reply) : (s.answer r).r1 = s.r1 := rfl
@[simp] theorem State.answer_outcome (r : Reply) : (s.answer r).outcome = s.outcome := rfl
@[simp] theorem State.answer_lenErr (r : Reply) : (s.answer r).lenErr = s.lenErr := rfl
@[simp] theorem State.answer_txv (r : Reply) : (s.answer r).txv = s.txv := rfl
@[simp] theorem State.answer_err (r : Reply) : (s.answer r).err = s.err := rfl
@[simp] theorem State.answer_crc (r : Reply) : (s.answer r).crc = s.crc := rfl
@[simp] theorem State.answer_rxlen (r : Reply) : (s.answer r).rxlen = s.rxlen := rfl
@[simp] theorem State.answer_plen (r : Reply) : (s.answer r).plen = s.plen := rfl
@[simp] theorem State.answer_diagExp (r : Reply) : (s.answer r).diagExp = s.diagExp := rfl
@[simp] theorem State.answer_diagAct (r : Reply) : (s.answer r).diagAct = s.diagAct := rfl
@[simp] theorem State.answer_txf (r : Reply) : (s.answer r).txf = s.txf := rfl
@[simp] theorem State.answer_rxb (r : Reply) : (s.answer r).rxb = s.rxb := rfl
@[simp] theorem State.answer_pay (r : Reply) : (s.answer r).pay = s.pay := rfl
@[simp] theorem State.answer_script (r : Reply) : (s.answer r).script = s.script := rfl
@[simp] theorem State.answer_replies (r : Reply) : (s.answer r).replies = r :: s.replies := rfl

/-! ### `State.setBuf`: only the buffer named -/

@[simp] theorem State.setBuf_a0 (b : Buf) (m : Mem) : (s.setBuf b m).a0 = s.a0 := by cases b <;> rfl
@[simp] theorem State.setBuf_a1 (b : Buf) (m : Mem) : (s.setBuf b m).a1 = s.a1 := by cases b <;> rfl
@[simp] theorem State.setBuf_a2 (b : Buf) (m : Mem) : (s.setBuf b m).a2 = s.a2 := by cases b <;> rfl
@[simp] theorem State.setBuf_r0 (b : Buf) (m : Mem) : (s.setBuf b m).r0 = s.r0 := by cases b <;> rfl
@[simp] theorem State.setBuf_r1 (b : Buf) (m : Mem) : (s.setBuf b m).r1 = s.r1 := by cases b <;> rfl
@[simp] theorem State.setBuf_outcome (b : Buf) (m : Mem) : (s.setBuf b m).outcome = s.outcome := by cases b <;> rfl
@[simp] theorem State.setBuf_lenErr (b : Buf) (m : Mem) : (s.setBuf b m).lenErr = s.lenErr := by cases b <;> rfl
@[simp] theorem State.setBuf_txv (b : Buf) (m : Mem) : (s.setBuf b m).txv = s.txv := by cases b <;> rfl
@[simp] theorem State.setBuf_err (b : Buf) (m : Mem) : (s.setBuf b m).err = s.err := by cases b <;> rfl
@[simp] theorem State.setBuf_crc (b : Buf) (m : Mem) : (s.setBuf b m).crc = s.crc := by cases b <;> rfl
@[simp] theorem State.setBuf_rxlen (b : Buf) (m : Mem) : (s.setBuf b m).rxlen = s.rxlen := by cases b <;> rfl
@[simp] theorem State.setBuf_plen (b : Buf) (m : Mem) : (s.setBuf b m).plen = s.plen := by cases b <;> rfl
@[simp] theorem State.setBuf_diagExp (b : Buf) (m : Mem) : (s.setBuf b m).diagExp = s.diagExp := by cases b <;> rfl
@[simp] theorem State.setBuf_diagAct (b : Buf) (m : Mem) : (s.setBuf b m).diagAct = s.diagAct := by cases b <;> rfl
@[simp] theorem State.setBuf_script (b : Buf) (m : Mem) : (s.setBuf b m).script = s.script := by cases b <;> rfl
@[simp] theorem State.setBuf_replies (b : Buf) (m : Mem) : (s.setBuf b m).replies = s.replies := by cases b <;> rfl
@[simp] theorem State.buf_setBuf_same (b : Buf) (m : Mem) : (s.setBuf b m).buf b = m := by cases b <;> rfl
theorem State.buf_setBuf_other {b c : Buf} (m : Mem) (h : c ≠ b) : (s.setBuf b m).buf c = s.buf c := by
  cases b <;> cases c <;> first | rfl | exact absurd rfl h
theorem State.setBuf_of_txf (m : Mem) : s.setBuf .txf m = { s with txf := m } := rfl
@[simp] theorem State.buf_of_txf : s.buf .txf = s.txf := rfl
theorem State.setBuf_of_rxb (m : Mem) : s.setBuf .rxb m = { s with rxb := m } := rfl
@[simp] theorem State.buf_of_rxb : s.buf .rxb = s.rxb := rfl
theorem State.setBuf_of_pay (m : Mem) : s.setBuf .pay m = { s with pay := m } := rfl
@[simp] theorem State.buf_of_pay : s.buf .pay = s.pay := rfl

end Sys2Proof.Machine
end

