-- ==== Sys2Proof/Laws/Memory.lean ====
section
/-! SUPPORT. What the buffer operations do, said once: reading after writing, the canonical form they keep, and that
equal contents are equal lists. -/

namespace Sys2Proof.Machine

/-! ### Erasing and inserting -/

theorem memGet_memErase_same (d : Nat → Byte) (m : Mem) (i : Nat) : memGet d (memErase m i) i = d i := by
  induction m with
  | nil => rfl
  | cons c rest ih =>
    obtain ⟨k, v⟩ := c
    by_cases h : k = i <;> simp [memErase, memGet, h, ih]

theorem memGet_memErase_other (d : Nat → Byte) (m : Mem) {i j : Nat} (hj : j ≠ i) :
    memGet d (memErase m i) j = memGet d m j := by
  induction m with
  | nil => rfl
  | cons c rest ih =>
    obtain ⟨k, v⟩ := c
    by_cases h : k = i
    · subst h; simp [memErase, memGet, ih, hj.symm]
    · rcases eq_or_ne k j with rfl | h'
      · simp [memErase, memGet, hj]
      · simp [memErase, memGet, h, h', ih]

theorem memErase_key_ne (m : Mem) (i : Nat) : ∀ c ∈ memErase m i, c.1 ≠ i := by
  induction m with
  | nil => simp [memErase]
  | cons c rest ih =>
    obtain ⟨k, v⟩ := c
    by_cases h : k = i
    · simpa [memErase, h] using ih
    · simpa [memErase, h] using ih

theorem memGet_memInsert_same (d : Nat → Byte) (m : Mem) (i : Nat) (b : Byte) (hm : ∀ c ∈ m, c.1 ≠ i) :
    memGet d (memInsert m i b) i = b := by
  induction m with
  | nil => simp [memInsert, memGet]
  | cons c rest ih =>
    obtain ⟨k, v⟩ := c
    have hk : k ≠ i := hm (k, v) (by simp)
    by_cases h : i < k
    · simp [memInsert, memGet, h]
    · simp [memInsert, memGet, h, hk, ih fun c hc => hm c (by simp [hc])]

theorem memGet_memInsert_other (d : Nat → Byte) (m : Mem) {i j : Nat} (b : Byte) (hj : j ≠ i) :
    memGet d (memInsert m i b) j = memGet d m j := by
  induction m with
  | nil => simp [memInsert, memGet, hj.symm]
  | cons c rest ih =>
    obtain ⟨k, v⟩ := c
    rcases eq_or_ne k j with rfl | h'
    · by_cases h : i < k <;> simp [memInsert, memGet, h, hj.symm]
    · by_cases h : i < k <;> simp [memInsert, memGet, h, h', hj.symm, ih]

/-! ### Reading after writing -/

/-- The byte read after one is stored. -/
theorem memGet_memPut (d : Nat → Byte) (m : Mem) (i j : Nat) (b : Byte) :
    memGet d (memPut d m i b) j = if j = i then b else memGet d m j := by
  unfold memPut
  by_cases hj : j = i
  · subst hj
    split
    · simp [memGet_memErase_same, *]
    · simp [memGet_memInsert_same _ _ _ _ (memErase_key_ne m j)]
  · split <;> simp [memGet_memInsert_other, memGet_memErase_other, hj]

/-- The byte read after a list of bytes is stored. -/
theorem memGet_memPutList (d : Nat → Byte) (v : List Byte) (m : Mem) (i j : Nat) :
    memGet d (memPutList d m i v) j = if i ≤ j then v[j - i]?.getD (memGet d m j) else memGet d m j := by
  induction v generalizing m i with
  | nil => simp [memPutList]
  | cons b rest ih =>
    rw [memPutList, ih, memGet_memPut]
    by_cases h : j = i
    · subst h; simp
    · by_cases h' : i ≤ j
      · obtain ⟨n, rfl⟩ : ∃ n, j = i + 1 + n := ⟨j - i - 1, by omega⟩
        simp [show i + 1 + n - i = n + 1 by omega, show i + 1 + n ≠ i by omega, h']
      · simp [h, h', show ¬ i + 1 ≤ j by omega]

/-! ### Lists of bytes -/

@[simp] theorem length_bytesFrom (f : Nat → Byte) (i n : Nat) : (bytesFrom f i n).length = n := by
  induction n generalizing i with
  | zero => rfl
  | succ n ih => simp [bytesFrom, ih]

theorem getElem?_bytesFrom (f : Nat → Byte) (i n k : Nat) :
    (bytesFrom f i n)[k]? = if k < n then some (f (i + k)) else none := by
  induction n generalizing i k with
  | zero => simp [bytesFrom]
  | succ n ih =>
    cases k with
    | zero => simp [bytesFrom]
    | succ k => simp [bytesFrom, ih, show i + 1 + k = i + (k + 1) by omega]

theorem bytesFrom_eq_map (f : Nat → Byte) (i n : Nat) : bytesFrom f i n = (List.range n).map fun k => f (i + k) := by
  apply List.ext_getElem?
  intro k
  rw [getElem?_bytesFrom]
  by_cases hk : k < n <;> simp [hk]

theorem bytesFrom_congr {f g : Nat → Byte} {i n : Nat} (h : ∀ k, i ≤ k → k < i + n → f k = g k) :
    bytesFrom f i n = bytesFrom g i n := by
  apply List.ext_getElem?
  intro k
  simp only [getElem?_bytesFrom]
  split
  · rw [h _ (by omega) (by omega)]
  · rfl

/-! ### The canonical form -/

theorem memWfFrom_mono {d : Nat → Byte} {size lo lo' : Nat} {m : Mem} (h : memWfFrom d size lo m = true)
    (hl : lo' ≤ lo) : memWfFrom d size lo' m = true := by
  cases m with
  | nil => rfl
  | cons c rest =>
    obtain ⟨k, v⟩ := c
    simp only [memWfFrom, Bool.and_eq_true, decide_eq_true_eq] at h ⊢
    exact ⟨⟨⟨by omega, h.1.1.2⟩, h.1.2⟩, h.2⟩

theorem memErase_wfFrom {d : Nat → Byte} {size lo : Nat} {m : Mem} (h : memWfFrom d size lo m = true) (i : Nat) :
    memWfFrom d size lo (memErase m i) = true := by
  induction m generalizing lo with
  | nil => rfl
  | cons c rest ih =>
    obtain ⟨k, v⟩ := c
    simp only [memWfFrom, Bool.and_eq_true, decide_eq_true_eq] at h
    by_cases hk : k = i
    · simpa [memErase, hk] using memWfFrom_mono (ih h.2) (by omega)
    · simpa [memErase, hk, memWfFrom] using ⟨⟨⟨h.1.1.1, h.1.1.2⟩, h.1.2⟩, ih h.2⟩

theorem memInsert_wfFrom {d : Nat → Byte} {size lo i : Nat} {b : Byte} {m : Mem} (h : memWfFrom d size lo m = true)
    (hm : ∀ c ∈ m, c.1 ≠ i) (hlo : lo ≤ i) (hi : i < size) (hb : b ≠ d i) :
    memWfFrom d size lo (memInsert m i b) = true := by
  induction m generalizing lo with
  | nil => simp [memInsert, memWfFrom, hlo, hi, hb]
  | cons c rest ih =>
    obtain ⟨k, v⟩ := c
    have hk : k ≠ i := hm (k, v) (by simp)
    simp only [memWfFrom, Bool.and_eq_true, decide_eq_true_eq] at h
    by_cases hik : i < k
    · simp only [memInsert, hik, if_true, memWfFrom, Bool.and_eq_true, decide_eq_true_eq]
      exact ⟨⟨⟨hlo, hi⟩, hb⟩, ⟨⟨by omega, h.1.1.2⟩, h.1.2⟩, h.2⟩
    · simp only [memInsert, hik, if_false, memWfFrom, Bool.and_eq_true, decide_eq_true_eq]
      exact ⟨h.1, ih h.2 (fun c hc => hm c (by simp [hc])) (by omega)⟩

/-- Storing one byte keeps the canonical form. -/
theorem memPut_wfFrom {d : Nat → Byte} {size lo i : Nat} {m : Mem} (h : memWfFrom d size lo m = true) (b : Byte)
    (hlo : lo ≤ i) (hi : i < size) : memWfFrom d size lo (memPut d m i b) = true := by
  unfold memPut
  split
  · exact memErase_wfFrom h i
  · exact memInsert_wfFrom (memErase_wfFrom h i) (memErase_key_ne m i) hlo hi ‹_›

/-- Storing a list of bytes keeps the canonical form. -/
theorem memPutList_wfFrom {d : Nat → Byte} {size lo i : Nat} {m : Mem} {v : List Byte}
    (h : memWfFrom d size lo m = true) (hlo : lo ≤ i) (hi : i + v.length ≤ size) :
    memWfFrom d size lo (memPutList d m i v) = true := by
  induction v generalizing m i with
  | nil => exact h
  | cons b rest ih =>
    simp only [List.length_cons] at hi
    exact ih (memPut_wfFrom h b hlo (by omega)) (by omega) (by omega)

theorem memGet_below {d : Nat → Byte} {size lo i : Nat} {m : Mem} (h : memWfFrom d size lo m = true) (hi : i < lo) :
    memGet d m i = d i := by
  induction m generalizing lo with
  | nil => rfl
  | cons c rest ih =>
    obtain ⟨k, v⟩ := c
    simp only [memWfFrom, Bool.and_eq_true, decide_eq_true_eq] at h
    simp [memGet, show k ≠ i by omega, ih h.2 (by omega)]

/-- Canonical buffers with the same contents are the same list. -/
theorem mem_ext_of_wf {d : Nat → Byte} {size lo : Nat} {m n : Mem} (hm : memWfFrom d size lo m = true)
    (hn : memWfFrom d size lo n = true) (h : ∀ i, memGet d m i = memGet d n i) : m = n := by
  induction m generalizing n lo with
  | nil =>
    cases n with
    | nil => rfl
    | cons c rest =>
      obtain ⟨k, v⟩ := c
      simp only [memWfFrom, Bool.and_eq_true, decide_eq_true_eq] at hn
      exact absurd (by simpa [memGet] using (h k).symm) hn.1.2
  | cons c rest ih =>
    obtain ⟨k, v⟩ := c
    have hm' := hm
    simp only [memWfFrom, Bool.and_eq_true, decide_eq_true_eq] at hm
    cases n with
    | nil => exact absurd (by simpa [memGet] using h k) hm.1.2
    | cons c' rest' =>
      obtain ⟨k', v'⟩ := c'
      have hn' := hn
      simp only [memWfFrom, Bool.and_eq_true, decide_eq_true_eq] at hn
      have below : ∀ {a b : Nat} {x : Byte} {r : Mem}, a < b → memWfFrom d size (b + 1) r = true →
          memGet d ((b, x) :: r) a = d a := fun {a b x r} hab hr => by
        simp [memGet, show b ≠ a by omega, memGet_below hr (show a < b + 1 by omega)]
      have hk : k = k' := by
        rcases Nat.lt_trichotomy k k' with hlt | heq | hgt
        · have := h k
          rw [below hlt hn.2] at this
          exact absurd (by simpa [memGet] using this) hm.1.2
        · exact heq
        · have := (h k').symm
          rw [below hgt hm.2] at this
          exact absurd (by simpa [memGet] using this) hn.1.2
      subst hk
      have hv : v = v' := by simpa [memGet] using h k
      subst hv
      congr 1
      refine ih hm.2 hn.2 fun i => ?_
      by_cases hi : k = i
      · subst hi
        rw [memGet_below hm.2 (by omega), memGet_below hn.2 (by omega)]
      · simpa [memGet, hi] using h i

end Sys2Proof.Machine
end

