-- ==== Sys2Proof/Laws/Ops.lean ====
section
/-! SUPPORT. One law for each shared operation of `Machine/Ops.lean`: what a checked command, a buffer read and a buffer
write answer, and what each leaves of the buffers. -/

namespace Sys2Proof.Machine

variable (s : State)

/-! ### Buffers under the other updates -/

@[simp] theorem State.buf_setR0 (v : Word) (x : Buf) : (s.setR0 v).buf x = s.buf x := by cases x <;> rfl
@[simp] theorem State.byteAt_setR0 (v : Word) (x : Buf) (i : Nat) : (s.setR0 v).byteAt x i = s.byteAt x i := by
  simp [State.byteAt]
@[simp] theorem State.buf_setR1 (v : Word) (x : Buf) : (s.setR1 v).buf x = s.buf x := by cases x <;> rfl
@[simp] theorem State.byteAt_setR1 (v : Word) (x : Buf) (i : Nat) : (s.setR1 v).byteAt x i = s.byteAt x i := by
  simp [State.byteAt]
@[simp] theorem State.buf_setCrc (r : Half) (x : Buf) : (s.setCrc r).buf x = s.buf x := by cases x <;> rfl
@[simp] theorem State.byteAt_setCrc (r : Half) (x : Buf) (i : Nat) : (s.setCrc r).byteAt x i = s.byteAt x i := by
  simp [State.byteAt]
@[simp] theorem State.buf_setTxv (x : Buf) : (s.setTxv).buf x = s.buf x := by cases x <;> rfl
@[simp] theorem State.byteAt_setTxv (x : Buf) (i : Nat) : (s.setTxv).byteAt x i = s.byteAt x i := by
  simp [State.byteAt]
@[simp] theorem State.buf_setVerdict (o : ValidationOutcome) (l : Bool) (n : BitVec 8) (e a : Half) (x : Buf) : (s.setVerdict o l n e a).buf x = s.buf x := by cases x <;> rfl
@[simp] theorem State.byteAt_setVerdict (o : ValidationOutcome) (l : Bool) (n : BitVec 8) (e a : Half) (x : Buf) (i : Nat) : (s.setVerdict o l n e a).byteAt x i = s.byteAt x i := by
  simp [State.byteAt]
@[simp] theorem State.buf_latch (c : CommandFault) (x : Buf) : (s.latch c).buf x = s.buf x := by cases x <;> rfl
@[simp] theorem State.byteAt_latch (c : CommandFault) (x : Buf) (i : Nat) : (s.latch c).byteAt x i = s.byteAt x i := by
  simp [State.byteAt]
@[simp] theorem State.buf_setScript (l : List Access) (x : Buf) : (s.setScript l).buf x = s.buf x := by cases x <;> rfl
@[simp] theorem State.byteAt_setScript (l : List Access) (x : Buf) (i : Nat) : (s.setScript l).byteAt x i = s.byteAt x i := by
  simp [State.byteAt]
@[simp] theorem State.buf_answer (r : Reply) (x : Buf) : (s.answer r).buf x = s.buf x := by cases x <;> rfl
@[simp] theorem State.byteAt_answer (r : Reply) (x : Buf) (i : Nat) : (s.answer r).byteAt x i = s.byteAt x i := by
  simp [State.byteAt]

@[simp] theorem State.buf_resetBlock (c : Buf) : s.resetBlock.buf c = [] := by cases c <;> rfl
@[simp] theorem State.byteAt_resetBlock (c : Buf) (i : Nat) : s.resetBlock.byteAt c i = resetByte c i := by
  simp [State.byteAt, memGet]
@[simp] theorem State.byteAt_reset (c : Buf) (i : Nat) : State.reset.byteAt c i = resetByte c i := by cases c <;> rfl

/-! ### Writing a buffer -/

/-- The byte read after a list is stored in a buffer. -/
theorem State.byteAt_setBuf_putList (b c : Buf) (i j : Nat) (v : List Byte) :
    (s.setBuf b (memPutList (resetByte b) (s.buf b) i v)).byteAt c j =
      if c = b ∧ i ≤ j then v[j - i]?.getD (s.byteAt c j) else s.byteAt c j := by
  by_cases h : c = b
  · subst h
    simp [State.byteAt, memGet_memPutList]
  · simp [State.byteAt, State.buf_setBuf_other s _ h, h]

/-- All that a buffer write can do: where it fits, the bytes stored and nothing else; else a refusal. -/
theorem State.memWrite_eq (b : Buf) (i : Nat) (v : List Byte) (k : State → Host.Outcome State Fault Refusal)
    (h : i + v.length ≤ b.size) :
    s.memWrite b i v k = k (s.setBuf b (memPutList (resetByte b) (s.buf b) i v)) := by
  simp [State.memWrite, h]

theorem State.memWrite_next {b : Buf} {i : Nat} {v : List Byte} {k : State → Host.Outcome State Fault Refusal}
    {t : State} (h : s.memWrite b i v k = .next t) :
    i + v.length ≤ b.size ∧ k (s.setBuf b (memPutList (resetByte b) (s.buf b) i v)) = .next t := by
  unfold State.memWrite at h
  split at h
  · exact ⟨‹_›, h⟩
  · cases h

/-! ### Reading a buffer -/

theorem State.memRead_eq (b : Buf) (i n : Nat) (k : List Byte → Host.Outcome State Fault Refusal)
    (h : i + n ≤ b.size) : s.memRead b i n k = k (bytesFrom (s.byteAt b) i n) := by
  simp [State.memRead, h]

theorem State.memRead_next {b : Buf} {i n : Nat} {k : List Byte → Host.Outcome State Fault Refusal} {t : State}
    (h : s.memRead b i n k = .next t) : i + n ≤ b.size ∧ k (bytesFrom (s.byteAt b) i n) = .next t := by
  unfold State.memRead at h
  split at h
  · exact ⟨‹_›, h⟩
  · cases h

/-! ### Checks of a command -/

@[simp] theorem require_true (c : CommandFault) (k : Host.Outcome State Fault Refusal) :
    require true c s k = k := rfl

@[simp] theorem require_false (c : CommandFault) (k : Host.Outcome State Fault Refusal) :
    require false c s k = .next (s.latch c) := rfl

/-- A checked command that answers next has either raised its fault or passed the check and gone on. -/
theorem require_next {ok : Bool} {c : CommandFault} {k : Host.Outcome State Fault Refusal} {t : State}
    (h : require ok c s k = .next t) : (ok = false ∧ t = s.latch c) ∨ (ok = true ∧ k = .next t) := by
  cases ok with
  | false => exact .inl ⟨rfl, by simpa using h.symm⟩
  | true => exact .inr ⟨rfl, h⟩

/-! ### The canonical form -/

theorem State.memWf_iff : s.memWf = true ↔ ∀ b, s.bufWf b = true := by
  simp only [State.memWf, Bool.and_eq_true]
  exact ⟨fun h b => by cases b <;> simp [h], fun h => ⟨⟨h _, h _⟩, h _⟩⟩

theorem State.memWf_reset : State.reset.memWf = true := rfl

/-- A buffer write keeps the canonical form. -/
theorem State.memWf_setBuf_putList {s : State} (b : Buf) (i : Nat) (v : List Byte) (h : s.memWf = true)
    (hi : i + v.length ≤ b.size) : (s.setBuf b (memPutList (resetByte b) (s.buf b) i v)).memWf = true := by
  rw [State.memWf_iff] at h ⊢
  intro c
  by_cases hc : c = b
  · subst hc
    simpa [State.bufWf] using memPutList_wfFrom (h c) (Nat.zero_le _) hi
  · simpa [State.bufWf, State.buf_setBuf_other s _ hc] using h c

end Sys2Proof.Machine
end

