-- ==== Sys2Proof/Laws/Checksum.lean ====
section
/-! SUPPORT. Halves of a 16-bit value and the checksum register: what a byte step loses nothing of. -/

namespace Sys2Proof.Machine

/-! ### Halves -/

theorem be16_eq_append (h l : Byte) : be16 h l = (h ++ l).setWidth 32 := by
  apply BitVec.eq_of_getLsbD_eq
  intro i hi
  simp only [be16, BitVec.getLsbD_or, BitVec.getLsbD_shiftLeft, BitVec.getLsbD_setWidth, BitVec.getLsbD_append]
  by_cases h8 : i < 8
  · simp [h8, hi]
  · simp [h8, hi, show i - 8 < 32 by omega]
    intro hh
    have := BitVec.lt_of_getLsbD hh
    omega

theorem be16_toNat (h l : Byte) : (be16 h l).toNat = h.toNat * 256 + l.toNat := by
  have := h.isLt
  have := l.isLt
  rw [be16_eq_append, BitVec.toNat_setWidth, BitVec.toNat_append, ← Nat.shiftLeft_add_eq_or_of_lt (by omega)]
  simp only [Nat.shiftLeft_eq]
  omega

theorem asU16_be16 (h l : Byte) : asU16 (be16 h l) = h ++ l := by
  rw [asU16, be16_eq_append]
  simp

theorem swap16_eq_append (v : Half) : swap16 v = lowByte v ++ highByte v := by
  apply BitVec.eq_of_getLsbD_eq
  intro i hi
  simp only [swap16, BitVec.getLsbD_or, BitVec.getLsbD_shiftLeft, BitVec.getLsbD_setWidth, BitVec.getLsbD_append]
  by_cases h8 : i < 8
  · simp [h8, hi]
  · simp [h8, hi, show i - 8 < 16 by omega]
    intro hh
    have := BitVec.lt_of_getLsbD hh
    omega

theorem swap16_toNat (v : Half) : (swap16 v).toNat = (v.toNat % 256) * 256 + v.toNat / 256 := by
  have := v.isLt
  rw [swap16_eq_append, BitVec.toNat_append, ← Nat.shiftLeft_add_eq_or_of_lt (BitVec.isLt _)]
  simp only [lowByte, highByte, BitVec.extractLsb'_toNat, Nat.shiftLeft_eq, Nat.shiftRight_eq_div_pow]
  omega

@[simp] theorem highByte_append (h l : Byte) : highByte (h ++ l) = h := by
  apply BitVec.eq_of_toNat_eq
  have := h.isLt
  have := l.isLt
  rw [highByte, BitVec.extractLsb'_toNat, BitVec.toNat_append, ← Nat.shiftLeft_add_eq_or_of_lt (by omega)]
  simp only [Nat.shiftLeft_eq, Nat.shiftRight_eq_div_pow]
  omega

@[simp] theorem lowByte_append (h l : Byte) : lowByte (h ++ l) = l := by
  apply BitVec.eq_of_toNat_eq
  have := l.isLt
  rw [lowByte, BitVec.extractLsb'_toNat, BitVec.toNat_append, ← Nat.shiftLeft_add_eq_or_of_lt (by omega)]
  simp only [Nat.shiftLeft_eq, Nat.shiftRight_eq_div_pow]
  omega

theorem append_highByte_lowByte (v : Half) : highByte v ++ lowByte v = v := by
  apply BitVec.eq_of_toNat_eq
  have := v.isLt
  rw [BitVec.toNat_append, ← Nat.shiftLeft_add_eq_or_of_lt (BitVec.isLt _)]
  simp only [lowByte, highByte, BitVec.extractLsb'_toNat, Nat.shiftLeft_eq, Nat.shiftRight_eq_div_pow]
  omega

@[simp] theorem highByte_swap16 (v : Half) : highByte (swap16 v) = lowByte v := by simp [swap16_eq_append]

@[simp] theorem lowByte_swap16 (v : Half) : lowByte (swap16 v) = highByte v := by simp [swap16_eq_append]

@[simp] theorem swap16_swap16 (v : Half) : swap16 (swap16 v) = v := by
  rw [swap16_eq_append (swap16 v), lowByte_swap16, highByte_swap16, append_highByte_lowByte]

/-! ### The register -/

theorem crcRun_eq_foldl (r : Half) (bytes : List Byte) : crcRun r bytes = bytes.foldl crcByte r := by
  induction bytes generalizing r with
  | nil => rfl
  | cons b rest ih => exact ih _

theorem crcRun_append (r : Half) (x y : List Byte) : crcRun r (x ++ y) = crcRun (crcRun r x) y := by
  simp [crcRun_eq_foldl]

theorem crcBits_succ (n : Nat) (r : Half) : crcBits (n + 1) r = crcBits n (crcBit r) := rfl

/-- A bit step shows in bit 15 whether it XORed, so it can be undone. -/
theorem crcBit_injective : Function.Injective crcBit := by
  have top : ∀ r : Half, (crcBit r).getLsbD 15 = r.getLsbD 0 := by
    intro r
    unfold crcBit
    split
    · rename_i h
      simp only [BitVec.getLsbD_xor, BitVec.getLsbD_ushiftRight, h, crcPoly]
      simp [BitVec.getLsbD_of_ge]
    · rename_i h
      simp only [Bool.not_eq_true] at h
      rw [h, BitVec.getLsbD_ushiftRight]
      simp [BitVec.getLsbD_of_ge]
  intro x y h
  have h0 : x.getLsbD 0 = y.getLsbD 0 := by rw [← top x, ← top y, h]
  have hs : x >>> 1 = y >>> 1 := by
    unfold crcBit at h
    rw [h0] at h
    split at h
    · simpa using h
    · exact h
  apply BitVec.eq_of_getLsbD_eq
  intro i _
  cases i with
  | zero => exact h0
  | succ i => simpa [BitVec.getLsbD_ushiftRight, Nat.add_comm] using congrArg (·.getLsbD i) hs

theorem crcBits_injective (n : Nat) : Function.Injective (crcBits n) := by
  induction n with
  | zero => exact fun _ _ h => h
  | succ n ih => exact fun _ _ h => crcBit_injective (ih h)

/-- From one register, two bytes lead to one register only if they are the same byte. -/
theorem crcByte_byte_injective (r : Half) : Function.Injective (crcByte r) := by
  intro a b h
  have := crcBits_injective 8 h
  apply BitVec.eq_of_toNat_eq
  have h' := congrArg BitVec.toNat (BitVec.xor_right_inj r |>.mp this)
  simpa [Nat.mod_eq_of_lt (show a.toNat < 65536 by omega), Nat.mod_eq_of_lt (show b.toNat < 65536 by omega)] using h'

/-- Over one byte, two registers lead to one register only if they are the same register. -/
theorem crcByte_register_injective (b : Byte) : Function.Injective fun r => crcByte r b := by
  intro x y h
  simpa using crcBits_injective 8 h

theorem crcRun_register_injective (bytes : List Byte) : Function.Injective fun r => crcRun r bytes := by
  induction bytes with
  | nil => exact fun _ _ h => h
  | cons b rest ih => exact fun _ _ h => crcByte_register_injective b (ih h)

end Sys2Proof.Machine
end

