-- ==== Sys2Proof/Laws/Decode.lean ====
section
/-! SUPPORT. The two decoders on numbers: fields of a command word, and the rows of the window map. -/

namespace Sys2Proof

theorem zeroField_eq_zero_iff (w : Word) : zeroField w = 0 ↔ w.toNat < 16 := by
  rw [← BitVec.toNat_inj]
  simp [zeroField, Nat.shiftRight_eq_div_pow]
  omega

theorem opField_toNat (w : Word) : (opField w).toNat = w.toNat % 16 := by simp [opField]

theorem regAt_offset (r : RegName) : regAt r.offset = some r := by cases r <;> rfl

/-- A register row of the map lies below 0x02C, at a multiple of 4. -/
theorem regAt_some {off : Nat} {r : RegName} (h : regAt off = some r) : off = r.offset := by
  by_cases hoff : off < 0x02C
  · have : ∀ off < 0x02C, ∀ r, regAt off = some r → off = r.offset := by
      intro off hoff r
      cases r <;> revert off <;> decide
    exact this off hoff r h
  · exfalso
    have hne : ∀ k, k < 0x02C → (off == k) = false := fun k hk => by simp; omega
    simp [regAt, regMap, List.lookup, hne] at h

theorem bufAt_base_add (b : Buf) {i : Nat} (hi : i < b.size) : bufAt (b.base + i) = some (b, i) := by
  cases b <;> simp only [Buf.size, Buf.base, Config.txfSize, Config.rxbSize, Config.paySize] at * <;>
    unfold bufAt <;> split_ifs <;> first | omega | (simp; try omega)

/-- A buffer row of the map holds that byte of that buffer. -/
theorem bufAt_some {off i : Nat} {b : Buf} (h : bufAt off = some (b, i)) : i < b.size ∧ off = b.base + i := by
  unfold bufAt at h
  split_ifs at h <;> simp only [Option.some.injEq, Prod.mk.injEq] at h <;> obtain ⟨rfl, rfl⟩ := h <;>
    simp only [Buf.size, Buf.base, Config.txfSize, Config.rxbSize, Config.paySize] <;> omega

theorem bufAt_none_iff (off : Nat) : bufAt off = none ↔
    ¬((0x040 ≤ off ∧ off ≤ 0x049) ∨ (0x100 ≤ off ∧ off ≤ 0x205) ∨ (0x300 ≤ off ∧ off ≤ 0x3FE)) := by
  unfold bufAt
  split_ifs <;> simp <;> omega

theorem regAt_none_iff (off : Nat) : regAt off = none ↔ ¬(off < 0x02C ∧ off % 4 = 0) := by
  constructor
  · rintro h ⟨hlt, h4⟩
    have : ∀ off < 0x02C, off % 4 = 0 → regAt off ≠ none := by decide
    exact this off hlt h4 h
  · intro h
    rcases hr : regAt off with _ | r
    · rfl
    · obtain rfl := regAt_some hr
      exact absurd ⟨by cases r <;> decide, by cases r <;> decide⟩ h

/-! ### The offered accesses, in numbers -/

theorem isUnmapped_iff (off : Nat) : isUnmapped off = true ↔
    (0x02C ≤ off ∧ off ≤ 0x03F) ∨ (0x04A ≤ off ∧ off ≤ 0x0FF) ∨ (0x206 ≤ off ∧ off ≤ 0x2FF) ∨ off = 0x3FF := by
  simp only [isUnmapped, Bool.or_eq_true, decide_eq_true_eq, or_assoc]

theorem inRegisters_iff (off : Nat) : inRegisters off = true ↔ off < 0x02C := by simp [inRegisters]

theorem Buf.holds_iff (b : Buf) (off : Nat) : b.holds off = true ↔ b.base ≤ off ∧ off < b.base + b.size := by
  simp [Buf.holds]

theorem inBuffers_iff (off : Nat) : inBuffers off = true ↔
    (0x040 ≤ off ∧ off ≤ 0x049) ∨ (0x100 ≤ off ∧ off ≤ 0x205) ∨ (0x300 ≤ off ∧ off ≤ 0x3FE) := by
  simp only [inBuffers, Bool.or_eq_true, Buf.holds_iff, Buf.base, Buf.size, Config.txfSize, Config.rxbSize,
    Config.paySize]
  omega

theorem byteAccessOffered_iff (off : Nat) : byteAccessOffered off = true ↔ off < 0x400 ∧ ¬ off < 0x02C := by
  simp only [byteAccessOffered, Bool.and_eq_true, decide_eq_true_eq, Bool.not_eq_true',
    Bool.eq_false_iff, ne_eq, inRegisters_iff]

theorem wordAccessOffered_iff (off : Nat) : wordAccessOffered off = true ↔ off < 0x400 ∧ off % 4 = 0 ∧
    ¬((0x040 ≤ off ∧ off ≤ 0x049) ∨ (0x100 ≤ off ∧ off ≤ 0x205) ∨ (0x300 ≤ off ∧ off ≤ 0x3FE)) := by
  simp only [wordAccessOffered, Bool.and_eq_true, decide_eq_true_eq, Bool.not_eq_true',
    Bool.eq_false_iff, ne_eq, inBuffers_iff, and_assoc]

/-! ### What an access can decode to -/

/-- All that a byte access can be: a buffer byte's transaction, or harmless. -/
theorem decodeByteAccess_some {off : Nat} {a : Access} {f : Buf → Nat → Transaction} {t : Transaction}
    (h : decodeByteAccess off a f = some t) :
    (∃ b i, i < b.size ∧ off = b.base + i ∧ t = f b i) ∨
      (t = .unmapped a ∧ byteAccessOffered off = true ∧ inBuffers off = false) := by
  unfold decodeByteAccess at h
  split at h
  · rename_i b i hb
    cases h
    exact .inl ⟨b, i, (bufAt_some hb).1, (bufAt_some hb).2, rfl⟩
  · rename_i hb
    rw [bufAt_none_iff] at hb
    split_ifs at h with hu
    cases h
    rw [isUnmapped_iff] at hu
    refine .inr ⟨rfl, ?_, ?_⟩
    · rw [byteAccessOffered_iff]; omega
    · rw [Bool.eq_false_iff, ne_eq, inBuffers_iff]; omega

/-- All that a word access can be: a register's transaction, or harmless. -/
theorem decodeWordAccess_some {off : Nat} {a : Access} {f : RegName → Transaction} {t : Transaction}
    (h : decodeWordAccess off a f = some t) :
    (∃ r : RegName, off = r.offset ∧ t = f r) ∨
      (t = .unmapped a ∧ wordAccessOffered off = true ∧ inRegisters off = false) := by
  unfold decodeWordAccess at h
  split at h
  · rename_i r hr
    cases h
    exact .inl ⟨r, regAt_some hr, rfl⟩
  · rename_i hr
    rw [regAt_none_iff] at hr
    split_ifs at h with hu
    cases h
    rw [isUnmapped_iff] at hu
    refine .inr ⟨rfl, ?_, ?_⟩
    · rw [wordAccessOffered_iff]; omega
    · rw [Bool.eq_false_iff, ne_eq, inRegisters_iff]; omega

end Sys2Proof
end

