-- ==== Sys2Proof/Laws/Operands.lean ====
section
/-! SUPPORT. The operand checks and the Field Decoder's functions, in numbers. -/

namespace Sys2Proof.Machine

variable {w : Word}

/-! ### Operand checks -/

theorem isU8_of_le (h : w.toNat ≤ 0xFF) : isU8 w = true := by simpa [isU8] using h
theorem isU8_of_lt (h : 0xFF < w.toNat) : isU8 w = false := by simpa [isU8] using h
theorem isU16_of_le (h : w.toNat ≤ 0xFFFF) : isU16 w = true := by simpa [isU16] using h
theorem isU16_of_lt (h : 0xFFFF < w.toNat) : isU16 w = false := by simpa [isU16] using h
theorem isDecimalPlaces_of_le (h : w.toNat ≤ 9) : isDecimalPlaces w = true := by simpa [isDecimalPlaces] using h
theorem isDecimalPlaces_of_lt (h : 9 < w.toNat) : isDecimalPlaces w = false := by simpa [isDecimalPlaces] using h

theorem State.rxlenFits_of_le {s : State} (h : s.rxlen.toNat ≤ 262) : s.rxlenFits = true := by
  simpa [State.rxlenFits] using h

theorem State.rxlenFits_of_lt {s : State} (h : 262 < s.rxlen.toNat) : s.rxlenFits = false := by
  simpa [State.rxlenFits] using h

theorem asU8_toNat (h : w.toNat ≤ 0xFF) : (asU8 w).toNat = w.toNat := by
  simp [asU8]
  omega

theorem asU16_toNat (h : w.toNat ≤ 0xFFFF) : (asU16 w).toNat = w.toNat := by
  simp [asU16]
  omega

/-- The buffer select, by its number: 0 TXF, 1 RXB, 2 PAY, and nothing above. -/
theorem selectBuf_none_iff : selectBuf w = none ↔ 2 < w.toNat := by
  unfold selectBuf
  simp only [← BitVec.toNat_inj]
  split_ifs <;> simp_all
  omega

theorem selectBuf_some_iff {b : Buf} : selectBuf w = some b ↔
    (w = 0 ∧ b = .txf) ∨ (w = 1 ∧ b = .rxb) ∨ (w = 2 ∧ b = .pay) := by
  unfold selectBuf
  split_ifs with h0 h1 h2
  · subst h0; simp [eq_comm]
  · subst h1; simp [eq_comm]
  · subst h2; simp [eq_comm]
  · exact ⟨fun h => absurd h (by simp), by rintro (⟨h, -⟩ | ⟨h, -⟩ | ⟨h, -⟩) <;> contradiction⟩

/-! ### The Field Decoder -/

/-- The table is the powers of ten (R162). -/
theorem pow10_toNat {d : Nat} (h : d ≤ 9) : (pow10 d).toNat = 10 ^ d := by
  interval_cases d <;> rfl

theorem dword_toNat (x y : Half) : (dword x y).toNat = x.toNat * 256 + y.toNat := by
  have := x.isLt
  have := y.isLt
  simp [dword, BitVec.toNat_add, Nat.shiftLeft_eq]
  omega

theorem kwh_toNat (x y : Half) : (kwh x y).toNat = x.toNat * 1000 + y.toNat := by
  have := x.isLt
  have := y.isLt
  simp [kwh, BitVec.toNat_add, BitVec.toNat_mul]
  omega

/-- PLEN never exceeds PAY (R33, R37). -/
theorem State.plen_le (s : State) : s.plen.toNat ≤ Buf.size .pay := by
  have := s.plen.isLt
  simp only [Buf.size, Config.paySize]
  omega

end Sys2Proof.Machine
end

