-- ==== Sys2Proof/Laws/Exec.lean ====
section
/-! SUPPORT. Everything a command can do, one law each: its next state as an equation, checks and faults included. -/

namespace Sys2Proof.Machine

variable (s : State)

/-! ### The Field Decoder -/

theorem execBe16_eq : execBe16 s = .next (if s.a0.toNat ≤ 0xFF ∧ s.a1.toNat ≤ 0xFF then
    s.setR0 (be16 (asU8 s.a0) (asU8 s.a1)) else s.latch .opRange) := by
  by_cases h0 : s.a0.toNat ≤ 0xFF <;> by_cases h1 : s.a1.toNat ≤ 0xFF <;> simp [execBe16, isU8, h0, h1]

theorem execScale_eq : execScale s = .next (if s.a1.toNat ≤ 9 then
    (s.setR0 (scaled s.a0 s.a1.toNat).1).setR1 (scaled s.a0 s.a1.toNat).2 else s.latch .opRange) := by
  by_cases h : s.a1.toNat ≤ 9 <;> simp [execScale, isDecimalPlaces, h]

theorem execDword_eq : execDword s = .next (if s.a0.toNat ≤ 0xFFFF ∧ s.a1.toNat ≤ 0xFFFF then
    s.setR0 (dword (asU16 s.a0) (asU16 s.a1)) else s.latch .opRange) := by
  by_cases h0 : s.a0.toNat ≤ 0xFFFF <;> by_cases h1 : s.a1.toNat ≤ 0xFFFF <;> simp [execDword, isU16, h0, h1]

theorem execKwh_eq : execKwh s = .next (if s.a0.toNat ≤ 0xFFFF ∧ s.a1.toNat ≤ 0xFFFF then
    s.setR0 (kwh (asU16 s.a0) (asU16 s.a1)) else s.latch .opRange) := by
  by_cases h0 : s.a0.toNat ≤ 0xFFFF <;> by_cases h1 : s.a1.toNat ≤ 0xFFFF <;> simp [execKwh, isU16, h0, h1]

theorem execLdw_eq : execLdw s = .next (if s.outcome = .success then
      if 2 * s.a0.toNat + 1 < s.plen.toNat then
        s.setR0 (be16 (s.byteAt .pay (2 * s.a0.toNat)) (s.byteAt .pay (2 * s.a0.toNat + 1)))
      else s.latch .bufRange
    else s.latch .noPayload) := by
  by_cases h0 : s.outcome = .success
  · by_cases h1 : 2 * s.a0.toNat + 1 < s.plen.toNat
    · have := s.plen_le
      simp only [execLdw, h0, h1, decide_true, require_true, if_true]
      rw [State.memRead_eq _ _ _ _ _ (by omega)]
      rfl
    · simp [execLdw, h0, h1]
  · simp [execLdw, h0]

/-! ### The Checksum Engine -/

/-- The bytes that CKSUM's limits leave are all in the buffer. -/
theorem State.limit_le_size {b : Buf} (h : b = .rxb → s.rxlen.toNat ≤ 262) : s.limit b ≤ b.size := by
  cases b with
  | txf => exact Nat.le_refl _
  | rxb => exact h rfl
  | pay => exact s.plen_le

theorem execCksum_eq : execCksum s = .next (match selectBuf s.a0 with
    | none => s.latch .opRange
    | some b =>
      if (b = .rxb → s.rxlen.toNat ≤ 262) ∧ s.a1.toNat + s.a2.toNat ≤ s.limit b then
        let r := crcRun crcInit (bytesFrom (s.byteAt b) s.a1.toNat s.a2.toNat)
        (s.setCrc r).setR0 ((swap16 r).setWidth 32)
      else s.latch .bufRange) := by
  unfold execCksum
  rcases selectBuf s.a0 with _ | b
  · rfl
  · have hb : (decide (b ≠ .rxb) || s.rxlenFits) = decide (b = .rxb → s.rxlen.toNat ≤ 262) := by
      cases b <;> simp [State.rxlenFits]
    simp only [hb]
    by_cases h0 : b = .rxb → s.rxlen.toNat ≤ 262
    · rw [decide_eq_true h0, require_true]
      by_cases h1 : s.a1.toNat + s.a2.toNat ≤ s.limit b
      · have := s.limit_le_size h0
        rw [decide_eq_true h1, require_true, State.memRead_eq _ _ _ _ _ (by omega), if_pos ⟨h0, h1⟩]
      · rw [decide_eq_false h1, require_false, if_neg fun h => h1 h.2]
    · rw [decide_eq_false h0, require_false, if_neg fun h => h0 h.1]

/-! ### BUILD -/

theorem execBuild_eq : execBuild s = .next
    (if s.a0.toNat ≤ 0xFF ∧ s.a1.toNat ≤ 0xFFFF ∧ s.a2.toNat ≤ 0xFFFF then
      let f := buildRequest (asU8 s.a0) (asU16 s.a1) (asU16 s.a2)
      let placed := be16 (f.getD 7 0) (f.getD 8 0)
      (((s.setBuf .txf (memPutList (resetByte .txf) s.txf 0 f)).setCrc (swap16 (asU16 placed))).setR0 placed).setTxv
    else s.latch .opRange) := by
  by_cases h0 : s.a0.toNat ≤ 0xFF
  · by_cases h1 : s.a1.toNat ≤ 0xFFFF
    · by_cases h2 : s.a2.toNat ≤ 0xFFFF
      · simp only [execBuild, isU8, isU16, h0, h1, h2, decide_true, require_true, and_self, if_true]
        rw [State.memWrite_eq _ _ _ _ _ (by simp [Buf.size, buildRequest, requestHead])]
        rfl
      · simp [execBuild, isU8, isU16, h0, h1, h2]
    · simp [execBuild, isU8, isU16, h0, h1]
  · simp [execBuild, isU8, h0]

/-! ### PARSE -/

/-- A failure's kind is one of the five, and LENERR comes only with MissingTrailer (R28, R137). -/
theorem parseResponse_fail {exp : Byte} {rx : List Byte} {k : ValidationOutcome} {e a : Half} {l : Bool}
    {c : Option Half} (h : parseResponse exp rx = .fail k e a l c) :
    k ≠ .success ∧ k ≠ .noParse ∧ (l = true → k = .missingTrailer) := by
  unfold parseResponse checkTrailer checkSum at h
  split_ifs at h
  · cases h; simp
  · cases h; simp
  · cases h; simp
  · split at h
    · cases h; simp
    · simp only [] at h
      split_ifs at h <;> cases h <;> simp

/-- A success has a payload that PAY holds, the bytes of RXB after the length byte, and equal checksums (R139). -/
theorem parseResponse_succeed {exp : Byte} {rx p : List Byte} {c got r : Half}
    (h : parseResponse exp rx = .succeed p c got r) :
    p.length ≤ 255 ∧ rx.length = p.length + 7 ∧ p = (rx.drop 4).take p.length ∧ c = got := by
  unfold parseResponse checkTrailer checkSum at h
  split_ifs at h
  split at h
  · cases h
  · rename_i l _
    simp only [] at h
    split_ifs at h with _ _ hc
    cases h
    have := l.isLt
    simp only [ne_eq, not_not] at *
    have hl : ((rx.drop 4).take l.toNat).length = l.toNat := by simp; omega
    exact ⟨by omega, by omega, by rw [hl], hc⟩

theorem writeBack_fail (k : ValidationOutcome) (e a : Half) (l : Bool) (c : Option Half) :
    writeBack (.fail k e a l c) s =
      .next ((((s.setCrcIf c).setVerdict k l 0 e a).setR0 ((outcomeCode k).setWidth 32)).setR1 0) := rfl

theorem writeBack_succeed {p : List Byte} (c got r : Half) (h : p.length ≤ 255) :
    writeBack (.succeed p c got r) s =
      .next (((((s.setBuf .pay (memPutList (resetByte .pay) s.pay 0 p)).setCrc r).setVerdict .success false
        (BitVec.ofNat 8 p.length) c got).setR0 0).setR1 (BitVec.ofNat 32 p.length)) := by
  simp only [writeBack]
  rw [State.memWrite_eq _ _ _ _ _ (by simpa [Buf.size] using h)]
  rfl

theorem execParse_eq : execParse s =
    if s.a0.toNat ≤ 0xFF then
      if s.rxlen.toNat ≤ 262 then
        writeBack (parseResponse (asU8 s.a0) (bytesFrom (s.byteAt .rxb) 0 s.rxlen.toNat)) s
      else .next (s.latch .bufRange)
    else .next (s.latch .opRange) := by
  by_cases h0 : s.a0.toNat ≤ 0xFF
  · by_cases h1 : s.rxlen.toNat ≤ 262
    · simp only [execParse, isU8, State.rxlenFits, Config.rxbSize, h0, h1, decide_true, require_true, if_true]
      rw [State.memRead_eq _ _ _ _ _ (by simpa [Buf.size] using h1)]
    · simp [execParse, isU8, State.rxlenFits, h0, h1]
  · simp [execParse, isU8, h0]

/-- All that PARSE can do: fault, fail or succeed. -/
theorem execParse_cases {t : State} (h : execParse s = .next t) :
    (0xFF < s.a0.toNat ∧ t = s.latch .opRange) ∨
    (s.a0.toNat ≤ 0xFF ∧ 262 < s.rxlen.toNat ∧ t = s.latch .bufRange) ∨
    (s.a0.toNat ≤ 0xFF ∧ s.rxlen.toNat ≤ 262 ∧ ∃ k e a l c,
      parseResponse (asU8 s.a0) (bytesFrom (s.byteAt .rxb) 0 s.rxlen.toNat) = .fail k e a l c ∧
      t = (((s.setCrcIf c).setVerdict k l 0 e a).setR0 ((outcomeCode k).setWidth 32)).setR1 0) ∨
    (s.a0.toNat ≤ 0xFF ∧ s.rxlen.toNat ≤ 262 ∧ ∃ p c r,
      parseResponse (asU8 s.a0) (bytesFrom (s.byteAt .rxb) 0 s.rxlen.toNat) = .succeed p c c r ∧ p.length ≤ 255 ∧
      t = ((((s.setBuf .pay (memPutList (resetByte .pay) s.pay 0 p)).setCrc r).setVerdict .success false
        (BitVec.ofNat 8 p.length) c c).setR0 0).setR1 (BitVec.ofNat 32 p.length)) := by
  rw [execParse_eq] at h
  split_ifs at h with h0 h1
  · rcases hp : parseResponse (asU8 s.a0) (bytesFrom (s.byteAt .rxb) 0 s.rxlen.toNat) with ⟨k, e, a, l, c⟩ | ⟨p, c, got, r⟩
    · rw [hp, writeBack_fail] at h
      cases h
      exact .inr (.inr (.inl ⟨h0, h1, k, e, a, l, c, rfl, rfl⟩))
    · obtain ⟨hl, -, -, rfl⟩ := parseResponse_succeed hp
      rw [hp, writeBack_succeed s _ _ _ hl] at h
      cases h
      exact .inr (.inr (.inr ⟨h0, h1, p, c, r, rfl, hl, rfl⟩))
  · cases h
    exact .inr (.inl ⟨h0, by omega, rfl⟩)
  · cases h
    exact .inl ⟨by omega, rfl⟩

end Sys2Proof.Machine
end

