-- ==== Sys2Proof/Laws/PerInstr.lean ====
section
/-! SUPPORT. Statements about every command, one lemma a constructor. -/

namespace Sys2Proof.Laws.RoundTrip

/-- A command's word (R84) decodes to the command, and every other bit of the word is fixed. -/
def Statement (i : Instr) : Prop := ∀ w : Word, decode w = .ok i ↔ w = encode i

theorem word_lt {w : Word} {i : Instr} (h : decode w = .ok i) : w.toNat < 16 := by
  unfold decode at h
  split at h
  · cases h
  · exact (zeroField_eq_zero_iff w).mp (by simpa using ‹¬ zeroField w ≠ 0›)

theorem of_small {i : Instr} (h : ∀ n < 16, decode (BitVec.ofNat 32 n) = .ok i → BitVec.ofNat 32 n = encode i)
    (he : decode (encode i) = .ok i) : Statement i := by
  intro w
  refine ⟨fun hw => ?_, fun hw => hw ▸ he⟩
  have e : w = BitVec.ofNat 32 w.toNat := by simp
  rw [e] at hw ⊢
  exact h _ (word_lt (w := w) (by simpa using hw)) hw

theorem nop : Statement .nop := of_small (by decide) rfl
theorem cksum : Statement .cksum := of_small (by decide) rfl
theorem build : Statement .build := of_small (by decide) rfl
theorem parse : Statement .parse := of_small (by decide) rfl
theorem be16 : Statement .be16 := of_small (by decide) rfl
theorem scale : Statement .scale := of_small (by decide) rfl
theorem dword : Statement .dword := of_small (by decide) rfl
theorem kwh : Statement .kwh := of_small (by decide) rfl
theorem ldw : Statement .ldw := of_small (by decide) rfl
theorem rst : Statement .rst := of_small (by decide) rfl

end Sys2Proof.Laws.RoundTrip
end

