-- ==== Sys2Proof/Laws/Port.lean ====
section
/-! SUPPORT. Everything a CMD write and a step can do, as case lists. -/

namespace Sys2Proof.Machine

theorem decode_iff {w : Word} {i : Instr} : decode w = .ok i ↔ w = encode i := by
  cases i
  · exact Laws.RoundTrip.nop w
  · exact Laws.RoundTrip.cksum w
  · exact Laws.RoundTrip.build w
  · exact Laws.RoundTrip.parse w
  · exact Laws.RoundTrip.be16 w
  · exact Laws.RoundTrip.scale w
  · exact Laws.RoundTrip.dword w
  · exact Laws.RoundTrip.kwh w
  · exact Laws.RoundTrip.ldw w
  · exact Laws.RoundTrip.rst w

/-- All that a CMD write can do (R82, R192). -/
theorem issue_cases {w : Word} {s t : State} (h : issue w s = .next t) :
    (s.err ≠ none ∧ w = 0x0000000F ∧ t = s.resetBlock) ∨
    (s.err ≠ none ∧ w ≠ 0x0000000F ∧ t = s) ∨
    (s.err = none ∧ ∃ i, w = encode i ∧ exec i s = .next t) ∨
    (s.err = none ∧ (∃ e, decode w = .error e) ∧ t = s.latch .illCmd) := by
  unfold issue at h
  split_ifs at h with he hw
  · cases h
    exact .inl ⟨Option.isSome_iff_ne_none.mp he, hw, rfl⟩
  · cases h
    exact .inr (.inl ⟨Option.isSome_iff_ne_none.mp he, hw, rfl⟩)
  · have he' : s.err = none := by simpa using he
    cases hd : decode w with
    | ok i =>
      rw [hd] at h
      exact .inr (.inr (.inl ⟨he', i, decode_iff.mp hd, h⟩))
    | error e =>
      rw [hd] at h
      cases h
      exact .inr (.inr (.inr ⟨he', ⟨e, rfl⟩, rfl⟩))

/-- What one access can leave of the block and of the host, the access's own removal from the script apart. -/
inductive Served (u : State) : Access → State → Prop
  | read (a : Access) (r : Reply) : Served u a (u.answer r)
  | ignored (a : Access) : Served u a u
  | setA0 (w : Word) : Served u (.w32 0x008 w) { u with a0 := w }
  | setA1 (w : Word) : Served u (.w32 0x00C w) { u with a1 := w }
  | setA2 (w : Word) : Served u (.w32 0x010 w) { u with a2 := w }
  | setRxlen (w : Word) : Served u (.w32 0x020 w) { u with rxlen := w.setWidth 9 }
  | store (i : Nat) (v : Byte) (hi : i < 262) :
    Served u (.w8 (0x100 + i) v) (u.setBuf .rxb (memPutList (resetByte .rxb) u.rxb i [v]))
  | command (w : Word) (t : State) (h : issue w u = .next t) : Served u (.w32 0x000 w) t
  | reset : Served u .reset u.resetBlock

theorem serve_cases {a : Access} {u t : State} (h : serve a u = .next t) : Served u a t := by
  unfold serve at h
  split at h
  · rename_i x hx
    cases a with
    | r16 => cases hx
    | w16 => cases hx
    | reset =>
      cases hx
      cases h
      exact .reset
    | r8 off =>
      rcases decodeByteAccess_some hx with ⟨b, i, h1, rfl, rfl⟩ | ⟨rfl, h1, h2⟩
      · simp only [perform, h1, if_true] at h
        cases h
        exact .read _ _
      · cases h
        exact .read _ _
    | r32 off =>
      rcases decodeWordAccess_some hx with ⟨r, rfl, rfl⟩ | ⟨rfl, h1, h2⟩
      · cases h
        exact .read _ _
      · cases h
        exact .read _ _
    | w8 off v =>
      rcases decodeByteAccess_some hx with ⟨b, i, h1, rfl, rfl⟩ | ⟨rfl, h1, h2⟩
      · simp only [perform, h1, if_true] at h
        cases b with
        | rxb =>
          have := (u.memWrite_next h).2
          cases this
          exact .store i v h1
        | txf =>
          cases h
          exact .ignored _
        | pay =>
          cases h
          exact .ignored _
      · cases h
        exact .ignored _
    | w32 off w =>
      rcases decodeWordAccess_some hx with ⟨r, rfl, rfl⟩ | ⟨rfl, h1, h2⟩
      · cases r with
        | cmd => exact .command w t h
        | a0 =>
          cases h
          exact .setA0 w
        | a1 =>
          cases h
          exact .setA1 w
        | a2 =>
          cases h
          exact .setA2 w
        | rxlen =>
          cases h
          exact .setRxlen w
        | _ =>
          cases h
          exact .ignored _
      · cases h
        exact .ignored _
  · cases h

/-- All that a step can do: with no access left nothing, else serve the first one. -/
theorem step_cases {s t : State} (h : step s = .next t) :
    (s.script = [] ∧ t = s) ∨ ∃ a rest, s.script = a :: rest ∧ Served (s.setScript rest) a t := by
  unfold step serveNext at h
  split at h
  · rename_i hs
    cases h
    exact .inl ⟨hs, rfl⟩
  · rename_i a rest hs
    exact .inr ⟨a, rest, hs, serve_cases h⟩

end Sys2Proof.Machine
end

