-- ==== Sys2Proof/Tests/Slice0.lean ====
section
/-! SUPPORT. Tests, with expected results from the spec's own tables and from `95_test_vectors.md` (V<n>), and for each
statement of the obligations states and operands that meet its hypotheses, clause by clause, at the ends of the ranges. -/

open Sys2Proof Sys2Proof.Machine Sys2Proof.Slice0

namespace Sys2Proof.Tests

/-! ### Small states -/

/-- The outcome is a next state of which `p` holds. -/
def after (o : Host.Outcome State Fault Refusal) (p : State → Bool) : Bool :=
  match o with
  | .next t => p t
  | .fault _ => false
  | .refused _ => false

theorem after_next {o : Host.Outcome State Fault Refusal} {p : State → Bool} (h : after o p = true) :
    ∃ t, o = .next t ∧ p t = true := by
  cases o with
  | next t => exact ⟨t, rfl, h⟩
  | fault _ => cases h
  | refused _ => cases h

/-- Reset, with operands. -/
def operands (a0 a1 a2 : Word) : State := { State.reset with a0 := a0, a1 := a1, a2 := a2 }

/-- Reset, with a response received and its expected address. -/
def received (address : Word) (bytes : List Byte) : State :=
  { State.reset with
    a0 := address, rxb := memPutList (resetByte .rxb) [] 0 bytes, rxlen := BitVec.ofNat 9 bytes.length }

/-- The response G of `95_test_vectors.md`. -/
def good : List Byte := [0x0A, 0x01, 0x03, 0x04, 0x00, 0x7B, 0x01, 0x2C, 0x8A, 0x67, 0x0D]

/-- Reset, with a payload held. -/
def holding (k : Word) (plen : BitVec 8) (payload : List Byte) : State :=
  { State.reset with a0 := k, outcome := .success, plen := plen, pay := memPutList (resetByte .pay) [] 0 payload }

/-- Reset, with a host that has these accesses to make. -/
def scripted (script : List Access) : State := { State.reset with script := script }

/-- The same with a fault latched. -/
def faulty (c : CommandFault) (script : List Access) : State := { State.reset with err := some c, script := script }

/-! ### Ill-formed terms are refused (R53, R64) -/

theorem test_wf_halfword : Access.wf (.r16 0x000) = false ∧ Access.wf (.w16 0x100 0) = false := by decide
theorem test_wf_misaligned_word : Access.wf (.r32 0x002) = false := by decide
theorem test_wf_word_outside_window : Access.wf (.w32 0x400 0) = false := by decide
theorem test_wf_word_on_buffer : Access.wf (.r32 0x100) = false ∧ Access.wf (.r32 0x3FC) = false := by decide
theorem test_wf_byte_on_register : Access.wf (.r8 0x02B) = false := by decide
theorem test_wf_byte_outside_window : Access.wf (.w8 0x400 0) = false := by decide
theorem test_wf_index_past_buffer : Transaction.wf (.bufRead .txf 10) = false ∧
    Transaction.wf (.bufWrite .rxb 262 0) = false ∧ Transaction.wf (.bufRead .pay 255) = false := by decide
theorem test_wf_unmapped_is_unmapped : Transaction.wf (.unmapped (.r32 0x008)) = false ∧
    Transaction.wf (.unmapped (.r8 0x100)) = false ∧ Transaction.wf (.unmapped (.r16 0x02C)) = false ∧
    Transaction.wf (.unmapped .reset) = false := by decide

/-! ### Decoding, from R84's words -/

theorem test_decode_nop : decode 0b00000000000000000000000000000000 = .ok .nop := by decide
theorem test_decode_cksum : decode 0b00000000000000000000000000000001 = .ok .cksum := by decide
theorem test_decode_build : decode 0b00000000000000000000000000000010 = .ok .build := by decide
theorem test_decode_parse : decode 0b00000000000000000000000000000011 = .ok .parse := by decide
theorem test_decode_be16 : decode 0b00000000000000000000000000000100 = .ok .be16 := by decide
theorem test_decode_scale : decode 0b00000000000000000000000000000101 = .ok .scale := by decide
theorem test_decode_dword : decode 0b00000000000000000000000000000110 = .ok .dword := by decide
theorem test_decode_kwh : decode 0b00000000000000000000000000000111 = .ok .kwh := by decide
theorem test_decode_ldw : decode 0b00000000000000000000000000001000 = .ok .ldw := by decide
theorem test_decode_rst : decode 0b00000000000000000000000000001111 = .ok .rst := by decide
theorem test_decode_reserved : ∀ n, 9 ≤ n → n < 15 → decode (BitVec.ofNat 32 n) = .error .reservedOp := by decide
theorem test_decode_upper_bits : ∀ k < 28, decode (BitVec.twoPow 32 (k + 4) ||| 1) = .error .upperBits := by decide
theorem test_decodeTableWord : decodeTableWord 32 7 = some .kwh ∧ decodeTableWord 8 0x10F = some .rst ∧
    decodeTableWord 32 0x1F = none := by decide

/-- R54's rows. -/
theorem test_decodeAccess : decodeAccess (.r32 0x01C) = some (.regRead .crc) ∧
    decodeAccess (.w32 0x020 11) = some (.regWrite .rxlen 11) ∧ decodeAccess (.r8 0x049) = some (.bufRead .txf 9) ∧
    decodeAccess (.w8 0x205 7) = some (.bufWrite .rxb 261 7) ∧ decodeAccess (.r8 0x300) = some (.bufRead .pay 0) ∧
    decodeAccess (.r8 0x3FF) = some (.unmapped (.r8 0x3FF)) := by decide

/-! ### One command each -/

theorem test_nop : after (step (scripted [.w32 0x000 0])) (fun t => decide (t = State.reset)) = true := by decide

/-- V6. -/
theorem test_cksum_template : after (exec .cksum (operands 0 1 6))
    (fun t => decide (t.r0 = 0x0000441B ∧ t.crc = 0x1B44 ∧ t.r1 = 0)) = true := by decide +kernel
/-- V8: the sum does not wrap. -/
theorem test_cksum_no_wrap : after (exec .cksum (operands 0 0xFFFFFFFF 2))
    (fun t => decide (t.statusWord = 0x00000307 ∧ t.crc = 0xFFFF)) = true := by decide +kernel

/-- V14. -/
theorem test_build : after (exec .build (operands 0x12 0x1234 0x000F)) (fun t => decide (
    bytesFrom (t.byteAt .txf) 0 10 = [0x0A, 0x12, 0x03, 0x12, 0x34, 0x00, 0x0F, 0x43, 0xDB, 0x0D] ∧ t.crc = 0xDB43 ∧
    t.statusWord = 0x00000017)) = true := by decide +kernel
/-- V17. -/
theorem test_build_count_range : after (exec .build (operands 0 0 0x10000))
    (fun t => decide (t.statusWord = 0x00000207 ∧ t.txf = [])) = true := by decide

/-- V19. -/
theorem test_parse_good : after (exec .parse (received 1 good)) (fun t => decide (
    t.statusWord = 0 ∧ t.r1 = 4 ∧ bytesFrom (t.byteAt .pay) 0 4 = [0x00, 0x7B, 0x01, 0x2C] ∧
    t.diagWord = 0x8A678A67 ∧ t.crc = 0x678A)) = true := by decide +kernel
/-- V22a. -/
theorem test_parse_flipped_bit :
    after (exec .parse (received 1 [0x0A, 0x01, 0x03, 0x04, 0x00, 0x7A, 0x01, 0x2C, 0x8A, 0x67, 0x0D]))
      (fun t => decide (t.statusWord = 5 ∧ t.r0 = 5 ∧ t.diagWord = 0xDBA78A67 ∧ t.crc = 0xA7DB)) = true := by
  decide +kernel

/-- V32. -/
theorem test_be16 : after (exec .be16 (operands 0xFF 0x00 0)) (fun t => decide (t.r0 = 0x0000FF00)) = true := by
  decide +kernel
theorem test_be16_range : after (exec .be16 (operands 0xFF 0x100 0)) (fun t => decide (t.statusWord = 0x207)) = true := by
  decide +kernel

/-- V33. -/
theorem test_scale : after (exec .scale (operands 0xFFFFFFFF 9 0))
    (fun t => decide (t.r0 = 4 ∧ t.r1 = 294967295)) = true := by decide +kernel
theorem test_scale_range : after (exec .scale (operands 5 10 0)) (fun t => decide (t.statusWord = 0x207)) = true := by
  decide +kernel

/-- R170: the carry. -/
theorem test_dword_carry : after (exec .dword (operands 0x0001 0xFFFF 0)) (fun t => decide (t.r0 = 0x000100FF)) = true := by
  decide +kernel
theorem test_dword_range : after (exec .dword (operands 0x10000 0 0)) (fun t => decide (t.statusWord = 0x207)) = true := by
  decide +kernel

/-- V30, the source's literal. -/
theorem test_kwh : after (exec .kwh (operands 12 34 0)) (fun t => decide (t.r0 = 12034)) = true := by decide +kernel
/-- V31. -/
theorem test_kwh_largest : after (exec .kwh (operands 65535 65535 0)) (fun t => decide (t.r0 = 0x03E8FC17)) = true := by
  decide +kernel

/-- R175. -/
theorem test_ldw : after (exec .ldw (holding 1 4 [0x00, 0x7B, 0x01, 0x2C])) (fun t => decide (t.r0 = 0x12C)) = true := by
  decide +kernel
theorem test_ldw_past_end : after (exec .ldw (holding 2 4 [0x00, 0x7B, 0x01, 0x2C]))
    (fun t => decide (t.err = some .bufRange ∧ t.r0 = 0)) = true := by decide +kernel

/-- R191. -/
theorem test_rst : after (step (faulty .opRange [.w32 0x000 15])) (fun t => decide (t = State.reset)) = true := by decide
/-- R191: the word must be exactly 0x0000000F. -/
theorem test_rst_exact : after (step (faulty .opRange [.w32 0x000 0x1F]))
    (fun t => decide (t.statusWord = 0x207)) = true := by decide +kernel

/-! ### The port and the checksum steps -/

theorem test_withFetchWord : after (step (State.reset.withFetchWord 32 0xF)) (fun t => decide (t = State.reset)) = true := by
  decide
/-- V3. -/
theorem test_crc_byte : crcByte 0xFFFF 0x0A = 0x473F := by decide +kernel
/-- V4. -/
theorem test_crc_check_value :
    checksum16 [0x31, 0x32, 0x33, 0x34, 0x35, 0x36, 0x37, 0x38, 0x39] 0 9 = 0x374B := by decide +kernel
theorem test_read_hidden_payload : (holding 0 1 [5, 6]).hostByte .pay 0 = 5 ∧ (holding 0 1 [5, 6]).hostByte .pay 1 = 0 := by
  decide +kernel
theorem test_write_keeps_form : memPut (resetByte .txf) [(1, 7)] 1 0 = [] ∧ memPut (resetByte .txf) [(4, 7)] 1 9 = [(1, 9), (4, 7)] := by
  decide
/-- S6. -/
theorem test_filter_identity : HostContext.filterIdentity [0x41, 0x42, 0x2D, 0x31] = [0x41, 0x42, 0x31] := by decide
theorem test_loop_takes_what_it_needs :
    HostContext.exchangeRead 2 3 [none, some 1, none, some 2, some 3] = some ⟨[1, 2], none, 4⟩ := by decide
/-- R209: the response bytes of the catalog's blocks. -/
theorem test_catalog_lengths : Script.expectedResponseLength HostContext.CatalogBlock.tripSettings1.registers = 27 ∧
    Script.expectedResponseLength HostContext.CatalogBlock.currentValues.registers = 37 ∧
    Script.expectedResponseLength HostContext.CatalogBlock.currentState.registers = 17 := by decide

/-! ### Hypotheses of the obligations: decoding and the port -/

theorem witness_transaction_wf : Transaction.wf (.bufRead .txf 9) = true ∧ Transaction.wf (.bufWrite .rxb 261 0xFF) = true ∧
    Transaction.wf (.bufRead .pay 254) = true ∧ Transaction.wf (.regWrite .diag 1) = true ∧
    Transaction.wf (.unmapped (.r8 0x3FF)) = true ∧ Transaction.wf (.unmapped (.w32 0x02C 1)) = true := by decide
theorem witness_decoded : decodeAccess (.w8 0x3FE 1) = some (.bufWrite .pay 254 1) ∧
    decodeAccess (.r32 0x0FC) = some (.unmapped (.r32 0x0FC)) := by decide
theorem witness_not_offered : Access.wf (.r16 0x008) = false ∧ Access.wf (.w32 0x3FD 0) = false := by decide
theorem witness_step_runs : (scripted [.w32 0x000 8]).script = .w32 0x000 8 :: [] ∧ decode 8 = .ok .ldw ∧
    (scripted [.w32 0x000 8]).err = none ∧ State.reset.err = none := by decide
theorem witness_issue_latched : (faulty .illCmd []).err ≠ none ∧ (0x1F : Word) ≠ 0x0000000F := by decide
theorem witness_issue_illegal : State.reset.err = none ∧ 16 ≤ (0x10 : Word).toNat ∧ 9 ≤ (9 : Word).toNat ∧
    (9 : Word).toNat ≤ 14 ∧ 9 ≤ (14 : Word).toNat ∧ (14 : Word).toNat ≤ 14 := by decide
theorem witness_step_serves_read : after (step (scripted [.r8 0x3FE])) (fun t => decide (t.replies = [.byte 0])) = true ∧
    isRead (.r8 0x3FE) = true := by decide
theorem witness_step_serves_write : after (step (scripted [.w32 0x008 5])) (fun t => decide (t.a0 = 5)) = true ∧
    isRead (.w32 0x008 5) = false := by decide
theorem witness_step_serves_nothing : step State.reset = .next State.reset ∧ State.reset.script = [] := ⟨rfl, rfl⟩
theorem witness_reads : isRead (.r32 0x028) = true ∧
    after (serve (.r32 0x028) State.reset) (fun t => decide (t.replies = [.word 0])) = true ∧ isRead (.r8 0x3FF) = true ∧
    after (serve (.r8 0x3FF) State.reset) (fun t => decide (t.replies = [.byte 0])) = true := by decide
theorem witness_read_only_register : RegName.diag ∈ [RegName.status, .r0, .r1, .crc, .plen, .diag] := by decide
theorem witness_buffer_reads : 9 ≤ 9 ∧ 261 ≤ 261 ∧ 254 ≤ 254 ∧ 254 < (holding 0 255 []).plen.toNat ∧
    (holding 0 254 []).plen.toNat ≤ 254 ∧ 0 < (holding 0 1 []).plen.toNat := by decide
theorem witness_unmapped_rows : InUnmappedRow 0x02C ∧ InUnmappedRow 0x03F ∧ InUnmappedRow 0x04A ∧ InUnmappedRow 0x0FF ∧
    InUnmappedRow 0x206 ∧ InUnmappedRow 0x2FF ∧ InUnmappedRow 0x3FF := by simp [InUnmappedRow]
theorem witness_unmapped_words : InUnmappedRow 0x02C ∧ 0x02C % 4 = 0 ∧ InUnmappedRow 0x2FC ∧ 0x2FC % 4 = 0 := by
  simp [InUnmappedRow]
theorem witness_stray_writes : (0x028 : Nat) ∈ [0x004, 0x014, 0x018, 0x01C, 0x024, 0x028] ∧
    ((0x040 ≤ 0x049 ∧ 0x049 ≤ 0x049) ∨ (0x300 ≤ 0x049 ∧ 0x049 ≤ 0x3FE)) ∧
    ((0x040 ≤ 0x3FE ∧ 0x3FE ≤ 0x049) ∨ (0x300 ≤ 0x3FE ∧ 0x3FE ≤ 0x3FE)) := by decide
theorem witness_refused_accesses : 0x002 % 4 ≠ 0 ∧ 0x400 ≤ 0x400 ∧ InBufferRow 0x048 ∧ InBufferRow 0x3FC ∧
    0x02B < 0x02C := by simp [InBufferRow]
theorem witness_bus_address : (0x3FF < 0x400 ∧ 0x400003FF = 0x40000000 + 0x3FF) ∧ 0x3FFFFFFF < 0x40000000 ∧
    0x40000000 + 0x400 ≤ 0x40000400 := by decide

/-! ### Hypotheses: the Checksum Engine -/

theorem witness_checksum_range : 1 + 6 ≤ (good.take 7).length ∧ 7 + 0 ≤ (good.take 7).length := by decide
theorem witness_cksum_select : 2 < (operands 3 0 0).a0.toNat := by decide
theorem witness_cksum_rxlen : (operands 1 0 0).a0 = 1 ∧ 262 < ({ operands 1 0 0 with rxlen := 263 } : State).rxlen.toNat := by
  decide
theorem witness_cksum_txf : (operands 0 5 6).a0 = 0 ∧ 10 < (operands 0 5 6).a1.toNat + (operands 0 5 6).a2.toNat ∧
    (operands 0 4 6).a1.toNat + (operands 0 4 6).a2.toNat ≤ 10 := by decide
theorem witness_cksum_rxb : (received 1 good).a0 = 1 ∧ (received 1 good).rxlen.toNat ≤ 262 ∧
    ((received 1 good).a1.toNat + (received 1 good).a2.toNat ≤ (received 1 good).rxlen.toNat) ∧
    ({ received 1 good with a1 := 4, a2 := 8 } : State).rxlen.toNat < 4 + 8 ∧
    ({ received 1 [] with rxlen := 262 } : State).rxlen.toNat ≤ 262 := by decide +kernel
theorem witness_cksum_pay : (holding 2 4 []).a0 = 2 ∧
    ({ holding 2 4 [] with a2 := 4 } : State).a1.toNat + ({ holding 2 4 [] with a2 := 4 } : State).a2.toNat ≤
      (holding 2 4 []).plen.toNat ∧
    (holding 2 0 []).plen.toNat < ({ holding 2 0 [] with a2 := 1 } : State).a1.toNat + 1 := by decide +kernel

/-! ### Hypotheses: the Frame Codec -/

theorem witness_build_ranges : 0xFF < (operands 0x100 0 0).a0.toNat ∧ 0xFFFF < (operands 0 0x10000 0).a1.toNat ∧
    0xFFFF < (operands 0 0 0x10000).a2.toNat := by decide
theorem witness_build_legal : (operands 0xFF 0xFFFF 0xFFFF).a0.toNat ≤ 0xFF ∧
    (operands 0xFF 0xFFFF 0xFFFF).a1.toNat ≤ 0xFFFF ∧ (operands 0xFF 0xFFFF 0xFFFF).a2.toNat ≤ 0xFFFF := by decide
theorem witness_parse_faults : 0xFF < (received 0x100 good).a0.toNat ∧
    (received 0xFF good).a0.toNat ≤ 0xFF ∧ 262 < ({ received 0xFF good with rxlen := 263 } : State).rxlen.toNat := by
  decide +kernel
theorem witness_parse_prefix : State.reset.a0.toNat ≤ 0xFF ∧ State.reset.rxlen.toNat ≤ 262 ∧
    Slice0.received State.reset 0 ≠ some 0x0A := by decide +kernel
/-- V23b, V23c, V21g: a check's byte is absent. -/
theorem witness_parse_absent :
    (Slice0.received (received 1 [0x0A]) 0 = some 0x0A ∧ Slice0.received (received 1 [0x0A]) 1 ≠ some 1) ∧
    (Slice0.received (received 1 [0x0A, 1]) 1 = some 1 ∧ Slice0.received (received 1 [0x0A, 1]) 2 ≠ some 3) ∧
    (Slice0.received (received 1 [0x0A, 1, 3]) 2 = some 3 ∧ Slice0.received (received 1 [0x0A, 1, 3]) 3 = none) := by
  decide +kernel
/-- A response that passes checks (a) to (c), with the length in its byte 3. -/
theorem witness_parse_header : (received 1 good).a0.toNat ≤ 0xFF ∧ (received 1 good).rxlen.toNat ≤ 262 ∧
    Slice0.received (received 1 good) 0 = some 0x0A ∧
    Slice0.received (received 1 good) 1 = some ((received 1 good).a0.setWidth 8) ∧
    Slice0.received (received 1 good) 2 = some 0x03 ∧ Slice0.received (received 1 good) 3 = some 4 := by decide +kernel
/-- V21a, V20, V22b, V19, in the order of the clauses. -/
theorem witness_parse_tail :
    ({ received 1 good with rxlen := 8 } : State).rxlen.toNat ≠ 4 + 7 ∧
    (received 1 (good.set 10 0x0A)).byteAt .rxb (4 + 6) ≠ 0x0D ∧
    ((received 1 (good.set 8 0x8B)).byteAt .rxb 10 = 0x0D ∧
      swap16 (registerOver (received 1 (good.set 8 0x8B)) .rxb 1 7) ≠ 0x8B67) ∧
    ((received 1 good).rxlen.toNat = 4 + 7 ∧ (received 1 good).byteAt .rxb 10 = 0x0D ∧
      swap16 (registerOver (received 1 good) .rxb 1 7) = 0x8A67) := by decide +kernel
/-- The longest response: L = 255, RXLEN = 262. -/
theorem witness_parse_longest : ({ received 1 [0x0A, 1, 3, 0xFF] with rxlen := 262 } : State).rxlen.toNat ≤ 262 ∧
    ({ received 1 [0x0A, 1, 3, 0xFF] with rxlen := 262 } : State).rxlen.toNat = (0xFF : Byte).toNat + 7 ∧
    Slice0.received { received 1 [0x0A, 1, 3, 0xFF] with rxlen := 262 } 3 = some 0xFF := by decide +kernel
theorem witness_response_frame : [0x00, 0x7B, 0x01, (0x2C : Byte)].length ≤ 255 ∧
    bytesFrom ((received 1 good).byteAt .rxb) 0 (received 1 good).rxlen.toNat =
      responseFrame ((received 1 good).a0.setWidth 8) [0x00, 0x7B, 0x01, 0x2C] := by decide +kernel
theorem witness_changed_byte : after (exec .parse (received 1 good))
    (fun t => decide (t.outcome = .success ∧ 3 < t.plen.toNat)) = true ∧
    (0x2D : Byte) ≠ (received 1 good).byteAt .rxb (4 + 3) := by decide +kernel
theorem witness_failed_parse : after (exec .parse State.reset) (fun t => decide (t.outcome ≠ .success)) = true := by
  decide +kernel
/-- Bytes of RXB past RXLEN differ. -/
theorem witness_stale_bytes : Instr.cksum ≠ .rst ∧
    (∀ k, k < (received 1 good).rxlen.toNat →
      memGet (resetByte .rxb) (memPut (resetByte .rxb) (received 1 good).rxb 11 0x55) k = (received 1 good).byteAt .rxb k) ∧
    after (exec .parse (received 1 good)) (fun _ => true) = true := by decide +kernel
theorem witness_hidden_payload : SameButHiddenPayload (holding 0 1 [5, 6]) { holding 0 1 [5, 6] with pay := [(0, 5), (1, 7)] } ∧
    after (step (holding 0 1 [5, 6])) (fun _ => true) = true := by
  unfold SameButHiddenPayload
  decide +kernel

/-! ### Hypotheses: the Field Decoder -/

theorem witness_be16 : 0xFF < (operands 0x100 0 0).a0.toNat ∧ 0xFF < (operands 0 0x100 0).a1.toNat ∧
    (operands 0xFF 0xFF 0).a0.toNat ≤ 0xFF ∧ (operands 0xFF 0xFF 0).a1.toNat ≤ 0xFF := by decide
theorem witness_scale : 9 < (operands 0 10 0).a1.toNat ∧ (operands 0 9 0).a1.toNat ≤ 9 := by decide
theorem witness_dword_kwh : 0xFFFF < (operands 0x10000 0 0).a0.toNat ∧ 0xFFFF < (operands 0 0x10000 0).a1.toNat ∧
    (operands 0xFFFF 0xFFFF 0).a0.toNat ≤ 0xFFFF ∧ (operands 0xFFFF 0xFFFF 0).a1.toNat ≤ 0xFFFF := by decide
/-- k = 126 with PLEN = 254 is the last word; k = 127 never loads; an odd byte has no partner (R175). -/
theorem witness_ldw : State.reset.outcome ≠ .success ∧
    ((holding 127 255 []).outcome = .success ∧ (holding 127 255 []).plen.toNat ≤ 2 * (holding 127 255 []).a0.toNat + 1) ∧
    (holding 0 1 []).plen.toNat ≤ 2 * (holding 0 1 []).a0.toNat + 1 ∧
    ((holding 126 254 []).outcome = .success ∧ 2 * (holding 126 254 []).a0.toNat + 1 < (holding 126 254 []).plen.toNat) := by
  decide

/-! ### Hypotheses: whole-machine rules -/

/-- Each fault, latched from a state that holds none. -/
theorem witness_faults : (State.reset.err = none ∧
      after (issue 9 State.reset) (fun t => decide (t.err = some .illCmd)) = true) ∧
    ((operands 0 10 0).err = none ∧ after (issue 5 (operands 0 10 0)) (fun t => decide (t.err = some .opRange)) = true) ∧
    ((operands 2 0 1).err = none ∧ after (issue 1 (operands 2 0 1)) (fun t => decide (t.err = some .bufRange)) = true) ∧
    after (issue 8 State.reset) (fun t => decide (t.err = some .noPayload)) = true := by decide +kernel
theorem witness_latched : (faulty .illCmd [.w32 0x000 1]).err = some .illCmd ∧
    after (step (faulty .illCmd [.w32 0x000 1])) (fun t => decide (t.err = some .illCmd)) = true ∧
    after (step (faulty .illCmd [.reset])) (fun t => decide (t.err = none)) = true := by decide +kernel
theorem witness_not_dropped : (∀ w, Transaction.regWrite .a0 5 ≠ .regWrite .cmd w) ∧
    Transaction.regWrite .a0 5 ≠ .regRead .status ∧ Transaction.regWrite .a0 5 ≠ .reset ∧
    after (perform (.regWrite .a0 5) { faulty .illCmd [] with err := none }) (fun t => decide (t.a0 = 5)) = true ∧
    (0x1F : Word) ≠ 0x0000000F := by
  refine ⟨fun w h => ?_, by decide, by decide, by decide, by decide⟩
  cases h
/-- An access that changes each kind of state. -/
theorem witness_changes : Access.w32 0x008 5 ≠ .reset ∧ Access.w32 0x008 5 ≠ .w32 0x000 0x0000000F ∧
    after (step (scripted [.w32 0x008 5])) (fun t => decide (t.a0 ≠ 0)) = true ∧
    after (step (scripted [.w32 0x00C 5])) (fun t => decide (t.a1 ≠ 0)) = true ∧
    after (step (scripted [.w32 0x010 5])) (fun t => decide (t.a2 ≠ 0)) = true ∧
    after (step (scripted [.w32 0x020 5])) (fun t => decide (t.rxlen ≠ 0)) = true ∧
    after (step (scripted [.w8 0x205 5])) (fun t => decide (t.rxb ≠ [])) = true ∧
    after (step (scripted [.w32 0x000 2])) (fun t => decide (t.txf ≠ [] ∧ t.txv = true ∧ t.crc ≠ 0xFFFF ∧ t.r0 ≠ 0)) = true ∧
    after (step { received 1 good with script := [.w32 0x000 3] })
      (fun t => decide (t.outcome ≠ .noParse ∧ t.plen ≠ 0 ∧ t.diagExp ≠ 0 ∧ t.pay ≠ [] ∧ t.r1 ≠ 0)) = true ∧
    after (step { received 1 [0x0A, 1, 3] with script := [.w32 0x000 3] }) (fun t => decide (t.lenErr ≠ false)) = true ∧
    after (step (scripted [.w32 0x000 9])) (fun t => decide (t.err ≠ none)) = true := by decide +kernel
theorem witness_frames : after (exec .scale (operands 7 3 0)) (fun t => decide (t.r1 ≠ 0)) = true ∧
    after (exec .cksum (operands 0 0 10)) (fun t => decide (t.crc = 0xF7D1)) = true ∧
    after (exec .ldw (holding 0 2 [1, 2])) (fun t => decide (t.r0 = 0x102)) = true ∧
    Instr.kwh ∈ [Instr.nop, .be16, .dword, .kwh, .ldw, .scale, .cksum] := by decide +kernel
theorem witness_build_frame : after (exec .build (operands 1 0x17 2)) (fun t => decide (t.byteAt .txf 8 = 0x0F)) = true ∧
    after (exec .build (operands 0x100 0 0)) (fun t => decide (t.err = some .opRange)) = true := by decide +kernel
theorem witness_parse_frame : after (exec .parse (received 1 good)) (fun t => decide (t.byteAt .pay 3 = 0x2C)) = true ∧
    after (exec .parse (received 0x100 good)) (fun t => decide (t.err = some .opRange)) = true ∧
    after (exec .parse { received 1 good with rxlen := 263 }) (fun t => decide (t.err = some .bufRange)) = true := by
  decide +kernel
/-- A state of the invariant that is not the reset state: it holds a payload. -/
theorem witness_invariant : (holding 0 1 [5]).Inv ∧ step (holding 0 1 [5]) = .next (holding 0 1 [5]) :=
  ⟨⟨rfl, by simp [holding, State.reset], by simp [holding, State.reset], by simp [holding, State.reset],
    by simp [holding, State.reset], by simp [holding, State.reset], by simp [holding, State.reset]⟩, rfl⟩
theorem witness_pseudo : State.reset.err = none ∧ good.length ≤ 262 ∧
    (List.replicate 262 (0x55 : Byte)).length ≤ 262 := by
  rw [List.length_replicate]
  decide
theorem witness_silent : 0 < (11 : Nat) ∧ 0 < (3 : Nat) ∧
    HostContext.exchangeRead 11 3 [none, none, none] = some ⟨[], some (.timeout 0), 3⟩ := by decide

end Sys2Proof.Tests
end

namespace Sys2Proof.Machine

/-! ### The meanings of the commands, by name -/

section
variable (s : State)

@[simp] theorem exec_nop : exec .nop s = .next s := rfl
@[simp] theorem exec_rst : exec .rst s = .next s.resetBlock := rfl
theorem exec_cksum : exec .cksum s = execCksum s := rfl
theorem exec_build : exec .build s = execBuild s := rfl
theorem exec_parse : exec .parse s = execParse s := rfl
theorem exec_be16 : exec .be16 s = execBe16 s := rfl
theorem exec_scale : exec .scale s = execScale s := rfl
theorem exec_dword : exec .dword s = execDword s := rfl
theorem exec_kwh : exec .kwh s = execKwh s := rfl
theorem exec_ldw : exec .ldw s = execLdw s := rfl

end

/-! ### The frame of each command: which fields its next state can differ in -/

section
variable {s t : State}

/-- BE16, DWORD, KWH and LDW write R0 or latch a fault. -/
theorem exec_fieldDecoder_frame {i : Instr} (hi : i = .be16 ∨ i = .dword ∨ i = .kwh ∨ i = .ldw)
    (h : exec i s = .next t) : t = { s with r0 := t.r0, err := t.err } := by
  rcases hi with rfl | rfl | rfl | rfl
  · rw [exec_be16, execBe16_eq] at h
    cases h
    split_ifs <;> rfl
  · rw [exec_dword, execDword_eq] at h
    cases h
    split_ifs <;> rfl
  · rw [exec_kwh, execKwh_eq] at h
    cases h
    split_ifs <;> rfl
  · rw [exec_ldw, execLdw_eq] at h
    cases h
    split_ifs <;> rfl

theorem exec_scale_frame (h : exec .scale s = .next t) : t = { s with r0 := t.r0, r1 := t.r1, err := t.err } := by
  rw [exec_scale, execScale_eq] at h
  cases h
  split_ifs <;> rfl

theorem exec_cksum_frame (h : exec .cksum s = .next t) : t = { s with r0 := t.r0, crc := t.crc, err := t.err } := by
  rw [exec_cksum, execCksum_eq] at h
  cases h
  rcases selectBuf s.a0 with _ | b
  · rfl
  · dsimp only
    split_ifs <;> rfl

theorem exec_build_frame (h : exec .build s = .next t) :
    t = { s with txf := t.txf, txv := t.txv, crc := t.crc, r0 := t.r0, err := t.err } := by
  rw [exec_build, execBuild_eq] at h
  cases h
  split_ifs <;> rfl

theorem exec_parse_frame (h : exec .parse s = .next t) :
    t = { s with
      outcome := t.outcome, lenErr := t.lenErr, plen := t.plen, diagExp := t.diagExp, diagAct := t.diagAct,
      r0 := t.r0, r1 := t.r1, crc := t.crc, pay := t.pay, err := t.err } := by
  rcases execParse_cases s h with ⟨-, rfl⟩ | ⟨-, -, rfl⟩ | ⟨-, -, k, e, a, l, c, -, rfl⟩ | ⟨-, -, p, c, r, -, -, rfl⟩
  · rfl
  · rfl
  · cases c <;> rfl
  · rfl

end

/-- The fields a command other than RST leaves alone, by the commands that may write them (R23). -/
structure CommandFrame (i : Instr) (s t : State) : Prop where
  hostWritten : t.a0 = s.a0 ∧ t.a1 = s.a1 ∧ t.a2 = s.a2 ∧ t.rxlen = s.rxlen ∧ t.rxb = s.rxb
  request : i ≠ .build → t.txf = s.txf ∧ t.txv = s.txv
  verdict : i ≠ .parse → t.outcome = s.outcome ∧ t.lenErr = s.lenErr ∧ t.plen = s.plen ∧ t.diagExp = s.diagExp ∧
    t.diagAct = s.diagAct ∧ t.pay = s.pay
  crc : i ≠ .cksum → i ≠ .build → i ≠ .parse → t.crc = s.crc
  r1 : i ≠ .parse → i ≠ .scale → t.r1 = s.r1
  r0 : i = .nop → t.r0 = s.r0
  host : t.script = s.script ∧ t.replies = s.replies

theorem exec_frame {i : Instr} {s t : State} (hi : i ≠ .rst) (h : exec i s = .next t) : CommandFrame i s t := by
  cases i with
  | rst => exact absurd rfl hi
  | nop =>
    cases h
    constructor <;> simp
  | be16 | dword | kwh | ldw =>
    rw [exec_fieldDecoder_frame (by simp) h]
    constructor <;> simp
  | scale =>
    rw [exec_scale_frame h]
    constructor <;> simp
  | cksum =>
    rw [exec_cksum_frame h]
    constructor <;> simp
  | build =>
    rw [exec_build_frame h]
    constructor <;> simp
  | parse =>
    rw [exec_parse_frame h]
    constructor <;> simp

namespace CommandFrame

variable {i : Instr} {s t : State}

theorem eq_build (h : CommandFrame i s t) (hc : t.txf ≠ s.txf ∨ t.txv ≠ s.txv) : i = .build := by
  by_contra hi
  simp [h.request hi] at hc

theorem eq_parse (h : CommandFrame i s t) (hc : t.outcome ≠ s.outcome ∨ t.lenErr ≠ s.lenErr ∨ t.plen ≠ s.plen ∨
    t.diagExp ≠ s.diagExp ∨ t.diagAct ≠ s.diagAct ∨ t.pay ≠ s.pay) : i = .parse := by
  by_contra hi
  simp [h.verdict hi] at hc

theorem writes_crc (h : CommandFrame i s t) (hc : t.crc ≠ s.crc) : i = .cksum ∨ i = .build ∨ i = .parse := by
  by_contra hi
  simp only [not_or] at hi
  obtain ⟨hcksum, hbuild, hparse⟩ := hi
  exact hc (h.crc hcksum hbuild hparse)

theorem writes_r1 (h : CommandFrame i s t) (hc : t.r1 ≠ s.r1) : i = .parse ∨ i = .scale := by
  by_contra hi
  simp only [not_or] at hi
  exact hc (h.r1 hi.1 hi.2)

end CommandFrame

/-! ### Bytes after a list is stored -/

@[simp] theorem State.byteAt_setCrcIf (s : State) (r : Option Half) (b : Buf) (i : Nat) :
    (s.setCrcIf r).byteAt b i = s.byteAt b i := by
  cases r <;> simp [State.setCrcIf]

@[simp] theorem length_buildRequest (address : Byte) (start count : Half) :
    (buildRequest address start count).length = 10 := rfl

/-- A stored list changes no byte outside its place. -/
theorem State.byteAt_setBuf_putList_outside (s : State) {b c : Buf} {i j : Nat} {v : List Byte}
    (h : ¬(c = b ∧ i ≤ j ∧ j < i + v.length)) :
    (s.setBuf b (memPutList (resetByte b) (s.buf b) i v)).byteAt c j = s.byteAt c j := by
  rw [State.byteAt_setBuf_putList]
  split_ifs with hc
  · have hj : ¬ j < i + v.length := fun hj => h ⟨hc.1, hc.2, hj⟩
    rw [List.getElem?_eq_none (by omega), Option.getD_none]
  · rfl

/-- A stored list reads back byte by byte. -/
theorem State.byteAt_setBuf_putList_inside (s : State) {b : Buf} {i : Nat} {v : List Byte} (h : i < v.length) :
    (s.setBuf b (memPutList (resetByte b) (s.buf b) 0 v)).byteAt b i = v[i] := by
  simp [State.byteAt_setBuf_putList, h]

/-! ### What a command and an access do to the script and the replies -/

/-- Every command, RST too, keeps the script and the replies. -/
theorem exec_host {i : Instr} {s t : State} (h : exec i s = .next t) :
    t.script = s.script ∧ t.replies = s.replies := by
  by_cases hi : i = .rst
  · subst hi
    cases h
    exact ⟨rfl, rfl⟩
  · exact (exec_frame hi h).host

theorem issue_host {w : Word} {s t : State} (h : issue w s = .next t) :
    t.script = s.script ∧ t.replies = s.replies := by
  rcases issue_cases h with ⟨-, -, rfl⟩ | ⟨-, -, rfl⟩ | ⟨-, i, -, hx⟩ | ⟨-, -, rfl⟩
  · exact ⟨rfl, rfl⟩
  · exact ⟨rfl, rfl⟩
  · exact exec_host hx
  · exact ⟨rfl, rfl⟩

section
open Sys2Proof.Slice0
variable {s t : State}

/-- A read does nothing but answer the host once. -/
theorem serve_read {a : Access} (ha : isRead a = true) (h : serve a s = .next t) : ∃ r, t = s.answer r := by
  unfold serve at h
  split at h
  · rename_i x hx
    cases a with
    | r8 off =>
      rcases decodeByteAccess_some hx with ⟨b, i, hi, rfl, rfl⟩ | ⟨rfl, -, -⟩
      · simp only [perform, hi, if_true] at h
        cases h
        exact ⟨_, rfl⟩
      · cases h
        exact ⟨_, rfl⟩
    | r32 off =>
      rcases decodeWordAccess_some hx with ⟨r, rfl, rfl⟩ | ⟨rfl, -, -⟩
      · cases h
        exact ⟨_, rfl⟩
      · cases h
        exact ⟨_, rfl⟩
    | r16 => cases hx
    | w8 | w16 | w32 | reset => cases ha
  · cases h

theorem writeReg_host {r : RegName} {w : Word} (h : writeReg r w s = .next t) :
    t.script = s.script ∧ t.replies = s.replies := by
  cases r with
  | cmd => exact issue_host h
  | _ =>
    cases h
    exact ⟨rfl, rfl⟩

theorem writeByte_host {b : Buf} {i : Nat} {v : Byte} (h : writeByte b i v s = .next t) :
    t.script = s.script ∧ t.replies = s.replies := by
  cases b with
  | rxb =>
    obtain ⟨-, h⟩ := s.memWrite_next h
    cases h
    exact ⟨rfl, rfl⟩
  | txf | pay =>
    cases h
    exact ⟨rfl, rfl⟩

/-- An access that is no read leaves the script and the replies alone. -/
theorem serve_host_of_not_read {a : Access} (ha : isRead a = false) (h : serve a s = .next t) :
    t.script = s.script ∧ t.replies = s.replies := by
  unfold serve at h
  split at h
  · rename_i x hx
    cases a with
    | w8 off v =>
      rcases decodeByteAccess_some hx with ⟨b, i, hi, rfl, rfl⟩ | ⟨rfl, -, -⟩
      · simp only [perform, hi, if_true] at h
        exact writeByte_host h
      · cases h
        exact ⟨rfl, rfl⟩
    | w32 off w =>
      rcases decodeWordAccess_some hx with ⟨r, rfl, rfl⟩ | ⟨rfl, -, -⟩
      · exact writeReg_host h
      · cases h
        exact ⟨rfl, rfl⟩
    | reset =>
      cases hx
      cases h
      exact ⟨rfl, rfl⟩
    | w16 => cases hx
    | r8 | r16 | r32 => cases ha
  · cases h

end

/-- A step from a script that is not empty serves its first access. -/
theorem step_of_script {s : State} {a : Access} {rest : List Access} (h : s.script = a :: rest) :
    step s = serve a (s.setScript rest) := by
  simp only [step, serveNext, h]

theorem step_of_script_nil {s : State} (h : s.script = []) : step s = .next s := by
  simp only [step, serveNext, h]

/-! ### A CMD write -/

/-- The word a command's table row gives is the command's word. -/
theorem tableWord_toNat (w : Word) : tableWord 32 w.toNat = w := by
  rw [tableWord, Nat.mod_eq_of_lt w.isLt, BitVec.ofNat_toNat, BitVec.setWidth_eq]

/-- Every write of CMD is issued. -/
theorem serve_writeCmd (w : Word) (s : State) : serve (.w32 0x000 w) s = issue w s := rfl

theorem issue_of_decode {w : Word} {i : Instr} {s : State} (herr : s.err = none) (hw : decode w = .ok i) :
    issue w s = exec i s := by
  simp [issue, herr, hw]

/-- The words of the commands that are neither NOP nor RST (R84). -/
theorem encode_toNat_between {i : Instr} (hnop : i ≠ .nop) (hrst : i ≠ .rst) :
    1 ≤ (encode i).toNat ∧ (encode i).toNat ≤ 8 := by
  cases i with
  | nop => exact absurd rfl hnop
  | rst => exact absurd rfl hrst
  | _ => decide

/-! ### STATUS as a number, and the fields cut out of it -/

theorem toNat_append_eq {n k : Nat} (x : BitVec n) (y : BitVec k) :
    (x ++ y).toNat = x.toNat * 2 ^ k + y.toNat := by
  rw [BitVec.toNat_append, ← Nat.shiftLeft_add_eq_or_of_lt y.isLt, Nat.shiftLeft_eq]

/-- STATUS as a number: the fields of R26 at their places. -/
theorem State.statusWord_toNat (s : State) : s.statusWord.toNat =
    (outcomeCode s.outcome).toNat + 8 * s.lenErr.toNat + 16 * s.txv.toNat + 256 * (errCode s.err).toNat := by
  unfold State.statusWord
  rw [toNat_append_eq, toNat_append_eq, toNat_append_eq, toNat_append_eq, toNat_append_eq]
  simp only [BitVec.toNat_ofBool, BitVec.ofNat_eq_ofNat, BitVec.toNat_ofNat, Nat.zero_mod]
  omega

theorem extractLsb'_eq_iff {n k : Nat} (w : BitVec n) (i : Nat) (v : BitVec k) :
    w.extractLsb' i k = v ↔ w.toNat / 2 ^ i % 2 ^ k = v.toNat := by
  rw [← BitVec.toNat_inj, BitVec.extractLsb'_toNat, Nat.shiftRight_eq_div_pow]

theorem getLsbD_eq_iff {n : Nat} (w : BitVec n) (i : Nat) (b : Bool) :
    w.getLsbD i = b ↔ w.toNat / 2 ^ i % 2 = b.toNat := by
  rw [← BitVec.testBit_toNat, Nat.testBit_eq_decide_div_mod_eq]
  have := Nat.mod_two_eq_zero_or_one (w.toNat / 2 ^ i)
  cases b <;> simp

/-! ### The reset table -/

section
open Sys2Proof.Slice0

/-- A reset of the block gives the reset table. -/
theorem isReset_resetBlock (s : State) : IsReset s.resetBlock := by
  have hstatus : s.resetBlock.statusWord = 0x00000007 := show State.reset.statusWord = 0x00000007 by decide
  have hdiag : s.resetBlock.diagWord = 0 := show State.reset.diagWord = 0 by decide
  refine ⟨rfl, rfl, rfl, rfl, rfl, rfl, rfl, rfl, rfl, hstatus, rfl, rfl, rfl, hdiag, ?_, ?_, ?_⟩
  · intro i hi
    rw [State.byteAt_resetBlock]
    revert i
    decide
  · intro i _
    exact State.byteAt_resetBlock s .rxb i
  · intro i _
    exact State.byteAt_resetBlock s .pay i

end

/-! ### Replacing a buffer commutes with the other updates -/

section
variable (s : State) (b : Buf) (m : Mem)

@[simp] theorem State.setBuf_setR0 (v : Word) : (s.setR0 v).setBuf b m = (s.setBuf b m).setR0 v := by cases b <;> rfl
@[simp] theorem State.setBuf_setR1 (v : Word) : (s.setR1 v).setBuf b m = (s.setBuf b m).setR1 v := by cases b <;> rfl
@[simp] theorem State.setBuf_setCrc (r : Half) : (s.setCrc r).setBuf b m = (s.setBuf b m).setCrc r := by
  cases b <;> rfl
@[simp] theorem State.setBuf_setTxv : s.setTxv.setBuf b m = (s.setBuf b m).setTxv := by cases b <;> rfl
@[simp] theorem State.setBuf_latch (c : CommandFault) : (s.latch c).setBuf b m = (s.setBuf b m).latch c := by
  cases b <;> rfl
@[simp] theorem State.setBuf_setVerdict (o : ValidationOutcome) (l : Bool) (n : BitVec 8) (e a : Half) :
    (s.setVerdict o l n e a).setBuf b m = (s.setBuf b m).setVerdict o l n e a := by cases b <;> rfl
@[simp] theorem State.setBuf_setCrcIf (r : Option Half) : (s.setCrcIf r).setBuf b m = (s.setBuf b m).setCrcIf r := by
  cases r <;> simp [State.setCrcIf]
@[simp] theorem State.limit_setBuf (c : Buf) : (s.setBuf b m).limit c = s.limit c := by cases c <;> simp [State.limit]

theorem State.setBuf_comm {b c : Buf} (m n : Mem) (h : b ≠ c) :
    (s.setBuf b m).setBuf c n = (s.setBuf c n).setBuf b m := by
  cases b <;> cases c <;> simp [State.setBuf] at h ⊢

end

/-! ### Commands read no buffer past its valid length -/

/-- `m` holds what buffer `b` holds, as far as the buffer's valid length. -/
def State.AgreesOn (s : State) (b : Buf) (m : Mem) : Prop :=
  ∀ k, k < s.limit b → memGet (resetByte b) m k = s.byteAt b k

section
variable {s t : State} {b : Buf} {m : Mem}

theorem State.AgreesOn.byteAt (hm : s.AgreesOn b m) {c : Buf} {k : Nat} (hk : k < s.limit c) :
    (s.setBuf b m).byteAt c k = s.byteAt c k := by
  by_cases hc : c = b
  · subst hc
    simpa [State.byteAt] using hm k hk
  · simp [State.byteAt, State.buf_setBuf_other s m hc]

theorem State.AgreesOn.bytesFrom (hm : s.AgreesOn b m) {c : Buf} {i n : Nat} (h : i + n ≤ s.limit c) :
    bytesFrom ((s.setBuf b m).byteAt c) i n = bytesFrom (s.byteAt c) i n :=
  bytesFrom_congr fun _ _ hk => hm.byteAt (by omega)

/-- BE16, SCALE, DWORD and KWH read no buffer. -/
theorem exec_registersOnly_setBuf {i : Instr} (hi : i = .be16 ∨ i = .scale ∨ i = .dword ∨ i = .kwh)
    (h : exec i s = .next t) : exec i (s.setBuf b m) = .next (t.setBuf b m) := by
  rcases hi with rfl | rfl | rfl | rfl
  · rw [exec_be16, execBe16_eq] at h ⊢
    cases h
    simp [apply_ite (State.setBuf · b m)]
  · rw [exec_scale, execScale_eq] at h ⊢
    cases h
    simp [apply_ite (State.setBuf · b m)]
  · rw [exec_dword, execDword_eq] at h ⊢
    cases h
    simp [apply_ite (State.setBuf · b m)]
  · rw [exec_kwh, execKwh_eq] at h ⊢
    cases h
    simp [apply_ite (State.setBuf · b m)]

/-- LDW reads below PLEN only. -/
theorem execLdw_setBuf (hm : s.AgreesOn b m) (h : execLdw s = .next t) :
    execLdw (s.setBuf b m) = .next (t.setBuf b m) := by
  rw [execLdw_eq] at h ⊢
  cases h
  simp only [State.setBuf_outcome, State.setBuf_a0, State.setBuf_plen]
  split_ifs with ho hk
  · rw [hm.byteAt (c := .pay) (show 2 * s.a0.toNat < s.plen.toNat by omega), hm.byteAt (c := .pay) hk]
    simp
  · simp
  · simp

/-- CKSUM reads below the limit of the buffer it selects only. -/
theorem execCksum_setBuf (hm : s.AgreesOn b m) (h : execCksum s = .next t) :
    execCksum (s.setBuf b m) = .next (t.setBuf b m) := by
  rw [execCksum_eq] at h ⊢
  cases h
  simp only [State.setBuf_a0, State.setBuf_a1, State.setBuf_a2, State.setBuf_rxlen, State.limit_setBuf]
  rcases selectBuf s.a0 with _ | c
  · simp
  · dsimp only
    split_ifs with hc
    · rw [hm.bytesFrom hc.2]
      simp
    · simp

/-- BUILD reads no buffer. -/
theorem execBuild_setBuf (hb : b ≠ .txf) (h : execBuild s = .next t) :
    execBuild (s.setBuf b m) = .next (t.setBuf b m) := by
  rw [execBuild_eq] at h ⊢
  cases h
  have htxf : (s.setBuf b m).txf = s.txf := s.buf_setBuf_other m hb.symm
  simp [apply_ite (State.setBuf · b m), htxf, State.setBuf_comm _ _ _ hb]

/-- A payload that PARSE has stored fits PAY. -/
theorem length_le_of_writeBack_succeed {p : List Byte} {c got r : Half}
    (h : writeBack (.succeed p c got r) s = .next t) : p.length ≤ 255 := by
  rw [writeBack] at h
  simpa [Buf.size] using (s.memWrite_next h).1

theorem writeBack_setBuf (hb : b ≠ .pay) {p : ParseResult} (h : writeBack p s = .next t) :
    writeBack p (s.setBuf b m) = .next (t.setBuf b m) := by
  cases p with
  | fail k e a l c =>
    rw [writeBack_fail] at h ⊢
    cases h
    simp
  | succeed p c got r =>
    have hlen := length_le_of_writeBack_succeed h
    have hpay : (s.setBuf b m).pay = s.pay := s.buf_setBuf_other m hb.symm
    rw [writeBack_succeed _ _ _ _ hlen] at h ⊢
    cases h
    simp [hpay, State.setBuf_comm _ _ _ hb]

/-- What PARSE finds depends on A0, RXLEN and the bytes of RXB below RXLEN. -/
theorem execParse_of_agreesOn (hm : s.AgreesOn b m) :
    execParse (s.setBuf b m) =
      if s.a0.toNat ≤ 0xFF then
        if s.rxlen.toNat ≤ 262 then
          writeBack (parseResponse (asU8 s.a0) (bytesFrom (s.byteAt .rxb) 0 s.rxlen.toNat)) (s.setBuf b m)
        else .next ((s.setBuf b m).latch .bufRange)
      else .next ((s.setBuf b m).latch .opRange) := by
  rw [execParse_eq, State.setBuf_a0, State.setBuf_rxlen,
    hm.bytesFrom (c := .rxb) (show 0 + s.rxlen.toNat ≤ s.rxlen.toNat by omega)]

theorem execParse_setBuf (hm : s.AgreesOn b m) (hb : b ≠ .pay) (h : execParse s = .next t) :
    execParse (s.setBuf b m) = .next (t.setBuf b m) := by
  rw [execParse_of_agreesOn hm]
  rw [execParse_eq] at h
  split_ifs at h ⊢ with h0 h1
  · exact writeBack_setBuf hb h
  · cases h
    simp
  · cases h
    simp

/-- A command that does not write buffer `b` runs alike from every state that agrees below the valid length. -/
theorem exec_setBuf {i : Instr} (hm : s.AgreesOn b m) (hrst : i ≠ .rst) (hbuild : i = .build → b ≠ .txf)
    (hparse : i = .parse → b ≠ .pay) (h : exec i s = .next t) : exec i (s.setBuf b m) = .next (t.setBuf b m) := by
  cases i with
  | nop =>
    cases h
    rfl
  | cksum => exact execCksum_setBuf hm h
  | build => exact execBuild_setBuf (hbuild rfl) h
  | parse => exact execParse_setBuf hm (hparse rfl) h
  | be16 | scale | dword | kwh => exact exec_registersOnly_setBuf (by simp) h
  | ldw => exact execLdw_setBuf hm h
  | rst => exact absurd rfl hrst

end

end Sys2Proof.Machine

namespace Sys2Proof.Slice0
open Sys2Proof.Machine

/-! ### Two states that differ only in hidden payload bytes -/

namespace SameButHiddenPayload

variable {s u t : State}

theorem eq_setBuf (h : SameButHiddenPayload s u) : u = s.setBuf .pay u.pay := h.1

theorem agreesOn (h : SameButHiddenPayload s u) : s.AgreesOn .pay u.pay := h.2

theorem of_setBuf {m : Mem} (hm : s.AgreesOn .pay m) : SameButHiddenPayload s (s.setBuf .pay m) := ⟨rfl, hm⟩

theorem refl (s : State) : SameButHiddenPayload s s := ⟨rfl, fun _ _ => rfl⟩

/-- An update that ignores PAY, and makes no more of it visible, keeps two states so. -/
theorem map {f : State → State} (hf : ∀ (s : State) (m : Mem), f (s.setBuf .pay m) = (f s).setBuf .pay m)
    (hplen : (f s).plen.toNat ≤ s.plen.toNat) (h : SameButHiddenPayload s u) : SameButHiddenPayload (f s) (f u) := by
  have hfs : (f s).pay = s.pay := calc
    (f s).pay = (f (s.setBuf .pay s.pay)).pay := rfl
    _ = ((f s).setBuf .pay s.pay).pay := by rw [hf]
    _ = s.pay := rfl
  have hfu : f u = (f s).setBuf .pay u.pay := by rw [← hf, ← h.eq_setBuf]
  rw [hfu]
  refine of_setBuf fun i hi => ?_
  rw [State.byteAt, State.buf_of_pay, hfs]
  exact h.agreesOn i (lt_of_lt_of_le hi hplen)

/-- The two states answer every read of a register alike. -/
theorem readReg (h : SameButHiddenPayload s u) (r : RegName) : u.readReg r = s.readReg r := by
  rw [h.eq_setBuf]
  cases r <;> rfl

/-- The two states answer every read of a buffer alike: PAY is masked by PLEN (R57). -/
theorem hostByte (h : SameButHiddenPayload s u) (b : Buf) (i : Nat) : u.hostByte b i = s.hostByte b i := by
  rw [h.eq_setBuf]
  cases b with
  | txf | rxb => rfl
  | pay =>
    simp only [State.hostByte, State.setBuf_plen]
    split_ifs with hi
    · exact h.agreesOn.byteAt hi
    · rfl

end SameButHiddenPayload

/-- An operation shows the host nothing of the hidden payload: from two states that differ only there it goes on to
two such states. -/
def HidesPayload (f : State → Host.Outcome State Fault Refusal) : Prop :=
  ∀ s u t : State, SameButHiddenPayload s u → f s = .next t → ∃ v, f u = .next v ∧ SameButHiddenPayload t v

/-- An update that ignores PAY and PLEN hides the payload. -/
theorem hidesPayload_map {f : State → State} (hf : ∀ (s : State) (m : Mem), f (s.setBuf .pay m) = (f s).setBuf .pay m)
    (hplen : ∀ s, (f s).plen = s.plen) : HidesPayload fun s => .next (f s) := by
  intro s u t hsu h
  cases h
  exact ⟨f u, rfl, hsu.map hf (by rw [hplen])⟩

theorem hidesPayload_resetBlock : HidesPayload fun s => .next s.resetBlock := by
  intro s u t hsu h
  cases h
  refine ⟨u.resetBlock, rfl, ?_⟩
  rw [show u.resetBlock = s.resetBlock by rw [hsu.eq_setBuf]; rfl]
  exact .refl _

theorem hidesPayload_writeBack (p : ParseResult) : HidesPayload (writeBack p) := by
  intro s u t hsu h
  cases p with
  | fail k e a l c =>
    rw [writeBack_fail] at h
    cases h
    refine ⟨_, writeBack_fail .., hsu.map (f := fun s =>
      (((s.setCrcIf c).setVerdict k l 0 e a).setR0 ((outcomeCode k).setWidth 32)).setR1 0) (by simp) (by simp)⟩
  | succeed p c got r =>
    have hlen := length_le_of_writeBack_succeed h
    rw [writeBack_succeed _ _ _ _ hlen] at h
    cases h
    refine ⟨_, writeBack_succeed _ _ _ _ hlen, ?_, fun i hi => ?_⟩
    · rw [hsu.eq_setBuf]
      rfl
    · have hi : i < p.length := lt_of_lt_of_le hi (Nat.mod_le _ _)
      have hs := s.byteAt_setBuf_putList_inside (b := .pay) hi
      have hu := u.byteAt_setBuf_putList_inside (b := .pay) hi
      exact hu.trans hs.symm

theorem hidesPayload_parse : HidesPayload (exec .parse) := by
  intro s u t hsu h
  rw [exec_parse, hsu.eq_setBuf, execParse_of_agreesOn hsu.agreesOn, ← hsu.eq_setBuf]
  rw [exec_parse, execParse_eq] at h
  split_ifs at h ⊢
  · exact hidesPayload_writeBack _ s u t hsu h
  · cases h
    exact ⟨_, rfl, hsu.map (f := (State.latch · .bufRange)) (by simp) (by simp)⟩
  · cases h
    exact ⟨_, rfl, hsu.map (f := (State.latch · .opRange)) (by simp) (by simp)⟩

/-- Only PARSE and RST write PAY or PLEN; every other command runs alike on PAY below PLEN and keeps both. -/
theorem hidesPayload_exec (i : Instr) : HidesPayload (exec i) := by
  by_cases hrst : i = .rst
  · rw [hrst]
    exact hidesPayload_resetBlock
  by_cases hparse : i = .parse
  · rw [hparse]
    exact hidesPayload_parse
  intro s u t hsu h
  have hu := exec_setBuf hsu.agreesOn hrst (fun _ => nofun) (fun hi => absurd hi hparse) h
  rw [← hsu.eq_setBuf] at hu
  obtain ⟨-, -, hplen, -, -, hpay⟩ := (exec_frame hrst h).verdict hparse
  refine ⟨_, hu, .of_setBuf fun k hk => ?_⟩
  rw [State.limit, hplen] at hk
  rw [State.byteAt, State.buf_of_pay, hpay]
  exact hsu.agreesOn k hk

theorem hidesPayload_issue (w : Word) : HidesPayload (issue w) := by
  intro s u t hsu h
  have herr : u.err = s.err := by rw [hsu.eq_setBuf]; rfl
  unfold issue at h ⊢
  rw [herr]
  split_ifs at h ⊢
  · exact hidesPayload_exec .rst s u t hsu h
  · cases h
    exact ⟨u, rfl, hsu⟩
  · split at h
    · exact hidesPayload_exec _ s u t hsu h
    · cases h
      exact ⟨_, rfl, hsu.map (f := (State.latch · .illCmd)) (by simp) (by simp)⟩

theorem hidesPayload_writeReg (r : RegName) (w : Word) : HidesPayload (writeReg r w) := by
  cases r with
  | cmd => exact hidesPayload_issue w
  | _ => exact hidesPayload_map (fun _ _ => rfl) fun _ => rfl

theorem hidesPayload_writeByte (b : Buf) (i : Nat) (v : Byte) : HidesPayload (writeByte b i v) := by
  cases b with
  | txf | pay => exact hidesPayload_map (fun _ _ => rfl) fun _ => rfl
  | rxb =>
    intro s u t hsu h
    obtain ⟨hi, h⟩ := s.memWrite_next h
    cases h
    exact ⟨_, u.memWrite_eq _ _ _ _ hi,
      hsu.map (f := fun s => s.setBuf .rxb (memPutList (resetByte .rxb) (s.buf .rxb) i [v])) (fun _ _ => rfl) le_rfl⟩

theorem hidesPayload_answer {g : State → Reply} (hg : ∀ s u, SameButHiddenPayload s u → g u = g s) :
    HidesPayload fun s => .next (s.answer (g s)) := by
  intro s u t hsu h
  cases h
  refine ⟨_, rfl, ?_⟩
  rw [hg s u hsu]
  exact hsu.map (f := (State.answer · (g s))) (fun _ _ => rfl) le_rfl

theorem hidesPayload_refused (r : Refusal) : HidesPayload fun _ => .refused r := by
  intro s u t _ h
  cases h

theorem hidesPayload_ite {c : Prop} [Decidable c] {f g : State → Host.Outcome State Fault Refusal}
    (hf : HidesPayload f) (hg : HidesPayload g) : HidesPayload fun s => if c then f s else g s := by
  split
  · exact hf
  · exact hg

theorem hidesPayload_unmappedAccess (a : Access) : HidesPayload (unmappedAccess a) := by
  cases a with
  | r8 | r32 => exact hidesPayload_answer fun _ _ _ => rfl
  | w8 | w32 => exact hidesPayload_map (fun _ _ => rfl) fun _ => rfl
  | r16 | w16 | reset => exact hidesPayload_refused _

theorem hidesPayload_perform (x : Transaction) : HidesPayload (perform x) := by
  cases x with
  | regRead r => exact hidesPayload_answer fun _ _ h => congrArg Reply.word (h.readReg r)
  | regWrite r w => exact hidesPayload_writeReg r w
  | bufRead b i =>
    exact hidesPayload_ite (hidesPayload_answer fun _ _ h => congrArg Reply.byte (h.hostByte b i))
      (hidesPayload_refused _)
  | bufWrite b i v => exact hidesPayload_ite (hidesPayload_writeByte b i v) (hidesPayload_refused _)
  | reset => exact hidesPayload_resetBlock
  | unmapped a => exact hidesPayload_unmappedAccess a

theorem hidesPayload_serve (a : Access) : HidesPayload (serve a) := by
  unfold serve
  cases decodeAccess a with
  | none => exact hidesPayload_refused _
  | some x => exact hidesPayload_perform x

theorem hidesPayload_step : HidesPayload step := by
  intro s u t hsu h
  have hscript : u.script = s.script := by rw [hsu.eq_setBuf]; rfl
  cases hs : s.script with
  | nil =>
    rw [step_of_script_nil hs] at h
    cases h
    exact ⟨u, step_of_script_nil (hscript.trans hs), hsu⟩
  | cons a rest =>
    rw [step_of_script hs] at h
    rw [step_of_script (hscript.trans hs)]
    exact hidesPayload_serve a _ _ t (hsu.map (f := (State.setScript · rest)) (fun _ _ => rfl) le_rfl) h

end Sys2Proof.Slice0

namespace Sys2Proof.Machine
open Sys2Proof.Slice0

/-! ### The obligations on the state -/

/-- Settles O31: no access shows the hidden payload, and the replies are among what the two states share. -/
theorem hiddenPayloadIsNeverObserved : Obligations.HiddenPayloadIsNeverObserved := by
  unfold Obligations.HiddenPayloadIsNeverObserved
  intro s u t hsu h
  obtain ⟨v, hv, htv⟩ := hidesPayload_step s u t hsu h
  refine ⟨v, hv, htv, ?_⟩
  rw [htv.eq_setBuf]
  rfl

/-- Settles O8: a step serves the first access, and only a read answers. -/
theorem stepServesOneAccess : Obligations.StepServesOneAccess := by
  unfold Obligations.StepServesOneAccess
  intro s t h
  refine ⟨fun hs => ?_, fun a rest hs => ?_⟩
  · rw [step_of_script_nil hs] at h
    cases h
    rfl
  · rw [step_of_script hs] at h
    cases ha : isRead a with
    | true =>
      obtain ⟨r, rfl⟩ := serve_read ha h
      exact ⟨rfl, fun _ => ⟨r, rfl⟩, nofun⟩
    | false =>
      obtain ⟨hscript, hreplies⟩ := serve_host_of_not_read ha h
      exact ⟨hscript, nofun, fun _ => hreplies⟩

/-- Settles O16: both resets end in `State.resetBlock`. -/
theorem resetGivesTheResetTable : Obligations.ResetGivesTheResetTable := by
  unfold Obligations.ResetGivesTheResetTable
  exact ⟨isReset_resetBlock .reset, fun s => ⟨s.resetBlock, rfl, rfl, isReset_resetBlock s, rfl, rfl⟩⟩

/-- Settles O30: no command writes RXB, and none reads it past RXLEN. -/
theorem staleReceiveBytesDecideNothing : Obligations.StaleReceiveBytesDecideNothing := by
  unfold Obligations.StaleReceiveBytesDecideNothing
  intro i s t m hrst hm h
  exact exec_setBuf (b := .rxb) hm hrst (fun _ => nofun) (fun _ => nofun) h

/-- Settles O40: of all that a step can do, only the two resets leave another ERR. -/
theorem latchedFaultStaysUntilReset : Obligations.LatchedFaultStaysUntilReset := by
  unfold Obligations.LatchedFaultStaysUntilReset
  intro s t c hc h
  rcases step_cases h with ⟨-, rfl⟩ | ⟨a, rest, hs, hserved⟩
  · exact .inl hc
  · cases hserved with
    | reset => exact .inr ⟨_, rest, hs, .inl rfl, rfl⟩
    | command w _ hw =>
      rcases issue_cases hw with ⟨-, rfl, rfl⟩ | ⟨-, -, rfl⟩ | ⟨hnone, -⟩ | ⟨hnone, -⟩
      · exact .inr ⟨_, rest, hs, .inr rfl, rfl⟩
      · exact .inl hc
      · exact absurd hnone (by simp [hc])
      · exact absurd hnone (by simp [hc])
    | _ => exact .inl hc

/-- Settles O42, by the cases of a step and the frame of the command a CMD write runs. -/
theorem onlyTheseAccessesChangeEachState : Obligations.OnlyTheseAccessesChangeEachState := by
  unfold Obligations.OnlyTheseAccessesChangeEachState
  intro s t a rest hs h hreset hrst
  rw [step_of_script hs] at h
  cases serve_cases h with
  | reset => exact absurd rfl hreset
  | read | ignored | setA0 | setA1 | setA2 | setRxlen => simp
  | store i v hi => simp [State.setBuf_of_rxb, hi]
  | command w _ hw =>
    rcases issue_cases hw with ⟨-, rfl, -⟩ | ⟨-, -, rfl⟩ | ⟨-, i, rfl, hx⟩ | ⟨-, -, rfl⟩
    · exact absurd rfl hrst
    · simp
    · have hi : i ≠ .rst := by rintro rfl; exact hrst rfl
      have hf := exec_frame hi hx
      obtain ⟨ha0, ha1, ha2, hrxlen, hrxb⟩ := hf.hostWritten
      refine ⟨absurd ha0, absurd ha1, absurd ha2, absurd hrxlen, absurd hrxb, fun hc => ?_, fun hc => ?_, fun hc => ?_,
        fun hc => ?_, fun hc => ?_, fun _ => ⟨_, rfl⟩⟩
      · rw [hf.eq_build hc]
        rfl
      · rw [hf.eq_parse hc]
        rfl
      · rcases hf.writes_crc hc with rfl | rfl | rfl <;> simp [encode]
      · rcases hf.writes_r1 hc with rfl | rfl <;> simp [encode]
      · obtain ⟨hpos, hle⟩ := encode_toNat_between (fun hn => hc (hf.r0 hn)) hi
        exact ⟨_, hpos, hle, rfl⟩
    · simp

/-- Settles O43, by the frames of the seven commands. -/
theorem registerCommandsKeepTheRest : Obligations.RegisterCommandsKeepTheRest := by
  unfold Obligations.RegisterCommandsKeepTheRest
  intro i s t h
  refine ⟨?_, fun hi => exec_fieldDecoder_frame hi h, ?_, ?_, fun hi b j => ?_⟩
  · rintro rfl
    cases h
    rfl
  · rintro rfl
    exact exec_scale_frame h
  · rintro rfl
    exact exec_cksum_frame h
  · have hrst : i ≠ .rst := by rintro rfl; simp at hi
    have hbuild : i ≠ .build := by rintro rfl; simp at hi
    have hparse : i ≠ .parse := by rintro rfl; simp at hi
    have hf := exec_frame hrst h
    cases b with
    | txf => simp [State.byteAt, hf.request hbuild]
    | rxb => simp [State.byteAt, hf.hostWritten]
    | pay => simp [State.byteAt, hf.verdict hparse]

/-- Settles O44, by BUILD's next state. -/
theorem buildKeepsTheRest : Obligations.BuildKeepsTheRest := by
  unfold Obligations.BuildKeepsTheRest
  intro s t h
  refine ⟨exec_build_frame h, ?_⟩
  rw [exec_build, execBuild_eq] at h
  cases h
  split_ifs with hr
  · refine ⟨fun b j hbj => ?_, fun hfault => by omega⟩
    simpa using s.byteAt_setBuf_putList_outside (b := .txf) (i := 0) (by simpa using hbj)
  · exact ⟨fun b j _ => by simp, fun _ b j => by simp⟩

/-- Settles O45, by the four ways PARSE ends. -/
theorem parseKeepsTheRest : Obligations.ParseKeepsTheRest := by
  unfold Obligations.ParseKeepsTheRest
  intro s t h
  refine ⟨exec_parse_frame h, ?_⟩
  rcases execParse_cases s h with
    ⟨-, rfl⟩ | ⟨-, -, rfl⟩ | ⟨-, -, k, e, a, l, c, -, rfl⟩ | ⟨h0, h1, p, c, r, -, hp, rfl⟩
  · exact ⟨fun b j _ => by simp, fun _ b j => by simp⟩
  · exact ⟨fun b j _ => by simp, fun _ b j => by simp⟩
  · exact ⟨fun b j _ => by simp, fun _ b j => by simp⟩
  · refine ⟨fun b j hbj => ?_, ?_⟩
    · have hlen : p.length % 256 = p.length := by omega
      simpa using s.byteAt_setBuf_putList_outside (b := .pay) (i := 0) (v := p) (by simpa [hlen] using hbj)
    · rintro (h | h | h)
      · omega
      · omega
      · exact absurd rfl h

/-- Settles O6, by serving the CMD write. -/
theorem stepRunsTheIssuedCommand : Obligations.StepRunsTheIssuedCommand := by
  unfold Obligations.StepRunsTheIssuedCommand
  refine ⟨fun s rest w i hs hw herr => ?_, fun s i herr => ?_⟩
  · rw [step_of_script hs, serve_writeCmd]
    exact issue_of_decode herr hw
  · rw [State.withFetchWord, tableWord_toNat, step_of_script rfl, serve_writeCmd]
    exact issue_of_decode herr (decode_iff.mpr rfl)

/-- Settles O10: STATUS as a number, and each field cut out of it. -/
theorem statusCodesAreTheTables : Obligations.StatusCodesAreTheTables := by
  unfold Obligations.StatusCodesAreTheTables
  intro s
  have hout := (outcomeCode s.outcome).isLt
  have herr := (errCode s.err).isLt
  have hlen := s.lenErr.toNat_le
  have htxv := s.txv.toNat_le
  have houtcome : s.statusWord.extractLsb' 0 3 = outcomeCode s.outcome := by
    rw [extractLsb'_eq_iff, State.statusWord_toNat]
    omega
  have hfault : s.statusWord.extractLsb' 8 4 = errCode s.err := by
    rw [extractLsb'_eq_iff, State.statusWord_toNat]
    omega
  refine ⟨?_, ?_, ?_, ?_, ?_, ?_⟩
  · rw [houtcome]
    cases s.outcome <;> rfl
  · rw [hfault]
    rcases s.err with _ | c
    · rfl
    · cases c <;> rfl
  · rw [getLsbD_eq_iff, State.statusWord_toNat]
    omega
  · rw [getLsbD_eq_iff, State.statusWord_toNat]
    omega
  · rw [extractLsb'_eq_iff, State.statusWord_toNat]
    change _ = 0
    omega
  · rw [extractLsb'_eq_iff, State.statusWord_toNat]
    change _ = 0
    omega

/-- Settles O47: each field of the invariant at the reset state. -/
theorem resetMeetsTheInvariant : Obligations.ResetMeetsTheInvariant := by
  unfold Obligations.ResetMeetsTheInvariant
  exact {
    canonical := State.memWf_reset
    built := nofun
    unbuilt := fun _ => rfl
    payloadNeedsSuccess := fun h => absurd rfl h
    lenErrNeedsTrailer := nofun
    successAgrees := nofun
    beforeParse := fun _ => ⟨rfl, rfl, rfl⟩ }

end Sys2Proof.Machine

namespace Sys2Proof.Machine
open Sys2Proof.Slice0

/-! ### The offsets no transaction but the harmless one reaches -/

/-- A byte offered outside the buffers lies in an unmapped row (R54, R59). -/
theorem isUnmapped_of_byteAccess {off : Nat} (ho : byteAccessOffered off = true) (hb : inBuffers off = false) :
    isUnmapped off = true := by
  rw [byteAccessOffered_iff] at ho
  rw [Bool.eq_false_iff, ne_eq, inBuffers_iff] at hb
  rw [isUnmapped_iff]
  omega

/-- A word offered outside the registers begins at a multiple of 4 in an unmapped row (R54, R59, R64). -/
theorem isUnmapped_of_wordAccess {off : Nat} (ho : wordAccessOffered off = true) (hr : inRegisters off = false) :
    off % 4 = 0 ∧ isUnmapped off = true := by
  rw [wordAccessOffered_iff] at ho
  rw [Bool.eq_false_iff, ne_eq, inRegisters_iff] at hr
  rw [isUnmapped_iff]
  omega

/-! ### What an access decodes to, row by row -/

section
variable {off : Nat} (a : Access)

theorem decodeByteAccess_base_add {b : Buf} {i : Nat} (f : Buf → Nat → Transaction) (hi : i < b.size) :
    decodeByteAccess (b.base + i) a f = some (f b i) := by
  simp only [decodeByteAccess, bufAt_base_add b hi]

theorem decodeByteAccess_unmapped (f : Buf → Nat → Transaction) (hu : isUnmapped off = true) :
    decodeByteAccess off a f = some (.unmapped a) := by
  have hb : bufAt off = none := by
    rw [isUnmapped_iff] at hu
    rw [bufAt_none_iff]
    omega
  simp only [decodeByteAccess, hb, hu, if_true]

theorem decodeWordAccess_offset (r : RegName) (f : RegName → Transaction) :
    decodeWordAccess r.offset a f = some (f r) := by
  simp only [decodeWordAccess, regAt_offset]

theorem decodeWordAccess_unmapped (f : RegName → Transaction) (h4 : off % 4 = 0) (hu : isUnmapped off = true) :
    decodeWordAccess off a f = some (.unmapped a) := by
  have hr : regAt off = none := by
    rw [isUnmapped_iff] at hu
    rw [regAt_none_iff]
    omega
  simp only [decodeWordAccess, hr, h4, hu, and_self, if_true]

/-! ### Which accesses decode -/

theorem decodeByteAccess_isSome (f : Buf → Nat → Transaction) :
    (decodeByteAccess off a f).isSome = byteAccessOffered off := by
  rw [Bool.eq_iff_iff, byteAccessOffered_iff]
  rcases hb : bufAt off with _ | ⟨b, i⟩
  · simp only [decodeByteAccess, hb, Option.isSome_ite, isUnmapped_iff]
    rw [bufAt_none_iff] at hb
    omega
  · have hmapped : bufAt off ≠ none := by simp [hb]
    rw [ne_eq, bufAt_none_iff] at hmapped
    simp only [decodeByteAccess, hb, Option.isSome_some, true_iff]
    omega

theorem decodeWordAccess_isSome (f : RegName → Transaction) :
    (decodeWordAccess off a f).isSome = wordAccessOffered off := by
  rw [Bool.eq_iff_iff, wordAccessOffered_iff]
  rcases hr : regAt off with _ | r
  · simp only [decodeWordAccess, hr, Option.isSome_ite, isUnmapped_iff]
    rw [regAt_none_iff] at hr
    omega
  · have hmapped : regAt off ≠ none := by simp [hr]
    rw [ne_eq, regAt_none_iff] at hmapped
    simp only [decodeWordAccess, hr, Option.isSome_some, true_iff]
    omega

/-- The decoder takes exactly the accesses that the prose of R53, R59 and R64 offers. -/
theorem decodeAccess_isSome : (decodeAccess a).isSome = a.wf := by
  cases a with
  | r8 off | w8 off v => exact decodeByteAccess_isSome _ _
  | r32 off | w32 off w => exact decodeWordAccess_isSome _ _
  | r16 | w16 | reset => rfl

end

/-- A harmless access decodes to itself, unmapped. -/
theorem decodeAccess_of_harmless {a : Access} (h : a.harmless = true) : decodeAccess a = some (.unmapped a) := by
  cases a with
  | r8 off | w8 off v =>
    simp only [Access.harmless, Bool.and_eq_true, Bool.not_eq_true'] at h
    exact decodeByteAccess_unmapped _ _ (isUnmapped_of_byteAccess h.1 h.2)
  | r32 off | w32 off w =>
    simp only [Access.harmless, Bool.and_eq_true, Bool.not_eq_true'] at h
    obtain ⟨h4, hu⟩ := isUnmapped_of_wordAccess h.1 h.2
    exact decodeWordAccess_unmapped _ _ h4 hu
  | r16 | w16 | reset => cases h

/-- Settles O3, a kind of transaction at a time: a register's offset, a buffer's byte, and the unmapped rows. -/
theorem accessOfATransactionDecodesToIt : Obligations.AccessOfATransactionDecodesToIt := by
  unfold Obligations.AccessOfATransactionDecodesToIt
  intro t ht
  cases t with
  | regRead r | regWrite r w => exact decodeWordAccess_offset _ r _
  | bufRead b i | bufWrite b i v => exact decodeByteAccess_base_add _ _ (of_decide_eq_true ht)
  | reset => rfl
  | unmapped a => exact decodeAccess_of_harmless ht

/-- Settles O4, by all that a byte access and a word access can decode to. -/
theorem decodedTransactionHasThatAccess : Obligations.DecodedTransactionHasThatAccess := by
  unfold Obligations.DecodedTransactionHasThatAccess
  intro a t h
  cases a with
  | r8 off | w8 off v =>
    rcases decodeByteAccess_some h with ⟨b, i, hi, rfl, rfl⟩ | ⟨rfl, ho, hb⟩
    · exact ⟨decide_eq_true hi, rfl⟩
    · exact ⟨by simp [Transaction.wf, Access.harmless, ho, hb], rfl⟩
  | r32 off | w32 off w =>
    rcases decodeWordAccess_some h with ⟨r, rfl, rfl⟩ | ⟨rfl, ho, hr⟩
    · exact ⟨rfl, rfl⟩
    · exact ⟨by simp [Transaction.wf, Access.harmless, ho, hr], rfl⟩
  | reset =>
    cases h
    exact ⟨rfl, rfl⟩
  | r16 | w16 => cases h

/-! ### Serving an access -/

section
variable {a : Access} (s : State)

theorem serve_of_decode {t : Transaction} (h : decodeAccess a = some t) : serve a s = perform t s := by
  simp only [serve, h]

/-- Serving a transaction's access performs the transaction. -/
theorem serve_encodeTransaction {t : Transaction} (ht : t.wf = true) : serve (encodeTransaction t) s = perform t s :=
  serve_of_decode s (accessOfATransactionDecodesToIt t ht)

theorem serve_of_not_wf (h : a.wf = false) : serve a s = .refused (.notATransaction a) := by
  have hd : decodeAccess a = none := Option.not_isSome_iff_eq_none.mp (by simp [decodeAccess_isSome, h])
  simp only [serve, hd]

/-! ### What a transaction does -/

theorem perform_bufRead {b : Buf} {i : Nat} (hi : i < b.size) :
    perform (.bufRead b i) s = .next (s.answer (.byte (s.hostByte b i))) := by
  simp only [perform, hi, if_true]

theorem perform_bufWrite {b : Buf} {i : Nat} (v : Byte) (hi : i < b.size) :
    perform (.bufWrite b i v) s = writeByte b i v s := by
  simp only [perform, hi, if_true]

theorem State.hostByte_pay_of_lt {i : Nat} (h : i < s.plen.toNat) : s.hostByte .pay i = s.byteAt .pay i := if_pos h

theorem State.hostByte_pay_of_le {i : Nat} (h : s.plen.toNat ≤ i) : s.hostByte .pay i = 0 := if_neg (by omega)

/-- A byte written to RXB is stored there. -/
theorem writeByte_rxb {i : Nat} (v : Byte) (hi : i < Buf.size .rxb) :
    writeByte .rxb i v s = .next { s with rxb := memPut (resetByte .rxb) s.rxb i v } :=
  s.memWrite_eq .rxb i [v] _ hi

/-- A write to TXF or PAY is ignored (R58). -/
theorem writeByte_ignored {b : Buf} (i : Nat) (v : Byte) (hb : b ≠ .rxb) : writeByte b i v s = .next s := by
  cases b with
  | rxb => exact absurd rfl hb
  | txf | pay => rfl

/-- A write to a register that the host cannot write is ignored (R56, R59). -/
theorem perform_regWrite_readOnly {r : RegName} (w : Word) (hr : r ∈ [RegName.status, .r0, .r1, .crc, .plen, .diag]) :
    perform (.regWrite r w) s = .next s := by
  cases r with
  | status | r0 | r1 | crc | plen | diag => rfl
  | cmd | a0 | a1 | a2 | rxlen => exact absurd hr (by decide)

end

/-- Settles O5: what does not decode is refused. -/
theorem portTakesExactlyTheOfferedAccesses : Obligations.PortTakesExactlyTheOfferedAccesses := by
  unfold Obligations.PortTakesExactlyTheOfferedAccesses
  exact fun a s => ⟨decodeAccess_isSome a, serve_of_not_wf s⟩

/-- Settles O9: each register's number, and that a read only answers. -/
theorem registerReadsReturnTheRegister : Obligations.RegisterReadsReturnTheRegister := by
  unfold Obligations.RegisterReadsReturnTheRegister
  intro s
  refine ⟨fun r => ⟨s.readReg r, rfl, ?_⟩, fun a t ha h => ?_⟩
  · cases r with
    | cmd | a0 | a1 | a2 | r0 | r1 => rfl
    | status => exact s.statusWord_toNat
    | crc | rxlen | plen => exact BitVec.toNat_setWidth_of_le (by decide)
    | diag =>
      have hdiag : s.diagWord.toNat = s.diagExp.toNat * 65536 + s.diagAct.toNat := toNat_append_eq _ _
      exact hdiag.trans (by rw [Nat.mul_comm])
  · obtain ⟨r, rfl⟩ := serve_read ha h
    rfl

/-- Settles O12: the byte the host sees, and the invariant's rule on PLEN. -/
theorem bufferReadsMaskThePayload : Obligations.BufferReadsMaskThePayload := by
  unfold Obligations.BufferReadsMaskThePayload
  intro s i
  refine ⟨fun hi => ?_, fun hi => ?_, fun hi hvisible => ?_, fun hi hhidden => ?_, fun hinv hplen => ?_⟩
  · exact perform_bufRead s (b := .txf) (Nat.lt_succ_of_le hi)
  · exact perform_bufRead s (b := .rxb) (Nat.lt_succ_of_le hi)
  · rw [perform_bufRead s (b := .pay) (Nat.lt_succ_of_le hi), s.hostByte_pay_of_lt hvisible]
    rfl
  · rw [perform_bufRead s (b := .pay) (Nat.lt_succ_of_le hi), s.hostByte_pay_of_le hhidden]
    rfl
  · refine hinv.payloadNeedsSuccess fun hzero => ?_
    simp [hzero] at hplen

/-- Settles O13, by reading RXB back after the byte is stored. -/
theorem bufferWritesStoreOneByteOfRxb : Obligations.BufferWritesStoreOneByteOfRxb := by
  unfold Obligations.BufferWritesStoreOneByteOfRxb
  intro s i v
  refine ⟨fun hi => ⟨memPut (resetByte .rxb) s.rxb i v, ?_, fun j => memGet_memPut _ _ i j v⟩, fun hi => ?_,
    fun hi => ?_⟩
  · have hin : i < Buf.size .rxb := Nat.lt_succ_of_le hi
    rw [perform_bufWrite s v hin, writeByte_rxb s v hin]
  · rw [perform_bufWrite s (b := .txf) v (Nat.lt_succ_of_le hi), writeByte_ignored s (b := .txf) i v nofun]
  · rw [perform_bufWrite s (b := .pay) v (Nat.lt_succ_of_le hi), writeByte_ignored s (b := .pay) i v nofun]

/-! ### Stray accesses -/

section
variable {off : Nat} (s : State)

/-- A byte written to TXF or PAY changes nothing. -/
theorem serve_w8_ignored {b : Buf} (v : Byte) (hb : b ≠ .rxb) (hlo : b.base ≤ off) (hhi : off < b.base + b.size) :
    serve (.w8 off v) s = .next s := by
  obtain ⟨i, rfl⟩ := Nat.exists_eq_add_of_le hlo
  have hi : i < b.size := by omega
  have hserve : serve (.w8 (b.base + i) v) s = perform (.bufWrite b i v) s :=
    serve_encodeTransaction s (t := .bufWrite b i v) (decide_eq_true hi)
  rw [hserve, perform_bufWrite s v hi, writeByte_ignored s i v hb]

/-- A word written to a read-only register changes nothing. -/
theorem serve_w32_readOnly (w : Word)
    (h : off ∈ [RegName.status, .r0, .r1, .crc, .plen, .diag].map RegName.offset) :
    serve (.w32 off w) s = .next s := by
  obtain ⟨r, hr, rfl⟩ := List.mem_map.mp h
  exact (serve_encodeTransaction s (t := .regWrite r w) rfl).trans (perform_regWrite_readOnly s w hr)

theorem wordAccessOffered_eq_false (h : off % 4 ≠ 0 ∨ 0x400 ≤ off ∨ InBufferRow off) :
    wordAccessOffered off = false := by
  unfold InBufferRow at h
  rw [Bool.eq_false_iff, ne_eq, wordAccessOffered_iff]
  omega

theorem byteAccessOffered_eq_false (h : off < 0x02C ∨ 0x400 ≤ off) : byteAccessOffered off = false := by
  rw [Bool.eq_false_iff, ne_eq, byteAccessOffered_iff]
  omega

end

/-- Settles O14, a clause at a time: harmless, ignored, refused. -/
theorem strayAccessesAreHarmless : Obligations.StrayAccessesAreHarmless := by
  unfold Obligations.StrayAccessesAreHarmless
  intro s off v h w
  refine ⟨fun hrow => ?_, fun hrow h4 => ?_, serve_w32_readOnly s w, ?_, ?_, fun a hoff => ?_, fun a hoff => ?_⟩
  · have hu : isUnmapped off = true := (isUnmapped_iff off).mpr hrow
    exact ⟨serve_of_decode s (a := .r8 off) (decodeByteAccess_unmapped _ _ hu),
      serve_of_decode s (a := .w8 off v) (decodeByteAccess_unmapped _ _ hu)⟩
  · have hu : isUnmapped off = true := (isUnmapped_iff off).mpr hrow
    exact ⟨serve_of_decode s (a := .r32 off) (decodeWordAccess_unmapped _ _ h4 hu),
      serve_of_decode s (a := .w32 off w) (decodeWordAccess_unmapped _ _ h4 hu)⟩
  · rintro (⟨hlo, hhi⟩ | ⟨hlo, hhi⟩)
    · exact serve_w8_ignored s (b := .txf) v nofun hlo (Nat.lt_succ_of_le hhi)
    · exact serve_w8_ignored s (b := .pay) v nofun hlo (Nat.lt_succ_of_le hhi)
  · rintro a (rfl | rfl) <;> exact serve_of_not_wf s rfl
  · rintro (rfl | rfl) <;> exact serve_of_not_wf s (wordAccessOffered_eq_false hoff)
  · rintro (rfl | rfl) <;> exact serve_of_not_wf s (byteAccessOffered_eq_false hoff)

/-! ### The register over its own bytes -/

/-- While the bits shifted out are 0 no bit step XORs. -/
theorem crcBits_eq_shift (n : Nat) (r : Half) (h : ∀ i, i < n → r.getLsbD i = false) : crcBits n r = r >>> n := by
  induction n generalizing r with
  | zero => simp [crcBits]
  | succ n ih =>
    have hbit : crcBit r = r >>> 1 := by rw [crcBit, h 0 (by omega), if_neg Bool.false_ne_true]
    have hlow : ∀ i, i < n → (r >>> 1).getLsbD i = false := fun i hi => by
      rw [BitVec.getLsbD_ushiftRight]
      exact h _ (by omega)
    rw [crcBits_succ, hbit, ih _ hlow, ← BitVec.shiftRight_add, Nat.add_comm]

/-- The bits of a register whose low byte has been XORed with itself. -/
theorem getLsbD_xor_lowByte (r : Half) (i : Nat) :
    (r ^^^ (lowByte r).setWidth 16).getLsbD i = (decide (8 ≤ i) && r.getLsbD i) := by
  by_cases h : i < 8
  · simp [lowByte, h, show i < 16 by omega]
  · simp [lowByte, show 8 ≤ i by omega]

/-- The byte step over the register's own low byte shifts it out (R61, R111). -/
theorem crcByte_lowByte (r : Half) : crcByte r (lowByte r) = (highByte r).setWidth 16 := by
  have hlow : ∀ i, i < 8 → (r ^^^ (lowByte r).setWidth 16).getLsbD i = false := fun i hi => by
    rw [getLsbD_xor_lowByte, decide_eq_false (by omega), Bool.false_and]
  rw [crcByte, crcBits_eq_shift 8 _ hlow]
  apply BitVec.eq_of_getLsbD_eq
  intro i hi
  rw [BitVec.getLsbD_ushiftRight, getLsbD_xor_lowByte]
  by_cases h : i < 8
  · simp [highByte, h, hi]
  · simp [highByte, h, BitVec.getLsbD_of_ge r (8 + i) (by omega)]

/-- The byte step over the byte that is all of the register empties it. -/
theorem crcByte_setWidth (b : Byte) : crcByte (b.setWidth 16) b = 0 := by
  rw [crcByte, BitVec.xor_self, crcBits_eq_shift 8 0#16 (by simp)]
  rfl

/-- Settles O21: the first byte shifts the register's low byte out, the second is what is left. -/
theorem checksumBytesEmptyTheRegister : Obligations.ChecksumBytesEmptyTheRegister := by
  unfold Obligations.ChecksumBytesEmptyTheRegister
  intro r bytes
  calc crcRun r (bytes ++ [highByte (swap16 (crcRun r bytes)), lowByte (swap16 (crcRun r bytes))])
      = crcByte (crcByte (crcRun r bytes) (lowByte (crcRun r bytes))) (highByte (crcRun r bytes)) := by
        rw [crcRun_append, highByte_swap16, lowByte_swap16]
        rfl
    _ = 0 := by rw [crcByte_lowByte, crcByte_setWidth]

/-! ### Commands answer -/

/-- A payload that passed PARSE's checks fits into PAY, so its write-back is never refused. -/
theorem writeBack_parseResponse_next (exp : Byte) (rx : List Byte) (s : State) :
    ∃ t, writeBack (parseResponse exp rx) s = .next t := by
  cases hp : parseResponse exp rx with
  | fail k e a l c => exact ⟨_, writeBack_fail s k e a l c⟩
  | succeed p c got r =>
    obtain ⟨hlen, -⟩ := parseResponse_succeed hp
    exact ⟨_, writeBack_succeed s c got r hlen⟩

theorem execParse_next (s : State) : ∃ t, execParse s = .next t := by
  rw [execParse_eq]
  split_ifs
  · exact writeBack_parseResponse_next _ _ s
  · exact ⟨_, rfl⟩
  · exact ⟨_, rfl⟩

/-- Settles O37, by each command's next state. -/
theorem everyCommandAnswersANextState : Obligations.EveryCommandAnswersANextState := by
  unfold Obligations.EveryCommandAnswersANextState
  intro i s
  cases i with
  | nop => exact ⟨_, exec_nop s⟩
  | cksum => exact ⟨_, execCksum_eq s⟩
  | build => exact ⟨_, execBuild_eq s⟩
  | parse => exact execParse_next s
  | be16 => exact ⟨_, execBe16_eq s⟩
  | scale => exact ⟨_, execScale_eq s⟩
  | dword => exact ⟨_, execDword_eq s⟩
  | kwh => exact ⟨_, execKwh_eq s⟩
  | ldw => exact ⟨_, execLdw_eq s⟩
  | rst => exact ⟨_, exec_rst s⟩

/-- Settles O11: RXLEN takes the word's low nine bits, and the read-only registers take nothing. -/
theorem registerWritesReachOnlyTheirRegister : Obligations.RegisterWritesReachOnlyTheirRegister := by
  unfold Obligations.RegisterWritesReachOnlyTheirRegister
  intro s w
  have hlow : (w.setWidth 9).toNat = w.toNat % 512 := BitVec.toNat_setWidth 9 w
  exact ⟨rfl, rfl, rfl, ⟨w.setWidth 9, hlow, rfl⟩, rfl, fun _ hr => perform_regWrite_readOnly s w hr⟩

/-! ### Where the window sits -/

theorem windowOffset_inside (base : Nat) {off : Nat} (h : off < 0x400) : windowOffset base (base + off) = some off := by
  simp [windowOffset, h]

theorem windowOffset_outside {base address : Nat} (h : address < base ∨ base + 0x400 ≤ address) :
    windowOffset base address = none :=
  if_neg (by simp only [Config.windowSize]; omega)

/-- Settles O15: the four bus functions go by the window offset. -/
theorem onlyTheOffsetFromBaseMatters : Obligations.OnlyTheOffsetFromBaseMatters := by
  unfold Obligations.OnlyTheOffsetFromBaseMatters
  intro base address w v
  refine ⟨fun off hoff haddr => ?_, fun hout => ?_⟩
  · simp [busRead32, busWrite32, busRead8, busWrite8, haddr, windowOffset_inside base hoff]
  · simp [busRead32, busWrite32, busRead8, busWrite8, windowOffset_outside hout]

end Sys2Proof.Machine

namespace Sys2Proof.Machine
open Sys2Proof.Slice0

/-! ### Reading back a stored list -/

/-- A list stored at index 0 reads back. -/
theorem bytesFrom_memPutList (d : Nat → Byte) (m : Mem) (v : List Byte) :
    bytesFrom (memGet d (memPutList d m 0 v)) 0 v.length = v := by
  apply List.ext_getElem?
  intro k
  rw [getElem?_bytesFrom, Nat.zero_add]
  split_ifs with hk
  · simp [memGet_memPutList, hk]
  · rw [List.getElem?_eq_none (by omega)]

/-! ### Response frames -/

/-- A response of R90's shape with any two bytes where the checksum belongs. -/
def frameWith (address : Byte) (payload : List Byte) (hi lo : Byte) : List Byte :=
  framePrefix :: address :: frameFunc :: BitVec.ofNat 8 payload.length :: (payload ++ [hi, lo, frameTrailer])

/-- The bytes that the checksum of such a response covers (R90, R137). -/
def coveredBytes (address : Byte) (payload : List Byte) : List Byte :=
  address :: frameFunc :: BitVec.ofNat 8 payload.length :: payload

/-- The received bytes pass the checks (a) to (d), with `l` in the length byte (R137). -/
structure PassesHeaderChecks (address l : Byte) (rx : List Byte) : Prop where
  startsWithPrefix : rx[0]? = some framePrefix
  fromAddress : rx[1]? = some address
  hasFunc : rx[2]? = some frameFunc
  hasLength : rx[3]? = some l
  length : rx.length = l.toNat + 7
  endsWithTrailer : rx[l.toNat + 6]? = some frameTrailer

section
variable {address l : Byte} {rx : List Byte}

theorem PassesHeaderChecks.parseResponse_eq (h : PassesHeaderChecks address l rx) :
    parseResponse address rx = checkSum rx l.toNat := by
  obtain ⟨h0, h1, h2, h3, hlen, htrailer⟩ := h
  simp only [parseResponse, checkTrailer, h0, h1, h2, h3, hlen, htrailer, ne_eq, not_true_eq_false, if_false]

/-- A successful response has passed the checks (a) to (d). -/
theorem passesHeaderChecks_of_succeed {p : List Byte} {c got r : Half}
    (h : parseResponse address rx = .succeed p c got r) :
    ∃ l, PassesHeaderChecks address l rx := by
  unfold parseResponse checkTrailer at h
  split_ifs at h with h0 h1 h2
  split at h
  · cases h
  · rename_i l h3
    dsimp only at h
    split_ifs at h with hlen htrailer
    exact ⟨l, not_not.mp h0, not_not.mp h1, not_not.mp h2, h3, not_not.mp hlen, not_not.mp htrailer⟩

/-- Bytes that pass the checks (a) to (d) are a response of R90's shape. -/
theorem PassesHeaderChecks.eq_frameWith (h : PassesHeaderChecks address l rx) :
    ∃ payload hi lo, payload.length = l.toNat ∧ rx = frameWith address payload hi lo := by
  obtain ⟨h0, h1, h2, h3, hlen, htrailer⟩ := h
  match rx with
  | x0 :: x1 :: x2 :: x3 :: rest =>
    cases h0; cases h1; cases h2; cases h3
    have hrest : rest.length = l.toNat + 3 := by simpa using hlen
    have hfit : (rest.take l.toNat).length = l.toNat := List.length_take_of_le (by omega)
    obtain ⟨hi, lo, last, hend⟩ := List.length_eq_three.mp (show (rest.drop l.toNat).length = 3 by simp [hrest])
    have hsplit : rest = rest.take l.toNat ++ [hi, lo, last] := by rw [← hend, List.take_append_drop]
    have hlast : last = frameTrailer := by
      have hread : (rest.drop l.toNat)[2]? = some frameTrailer := by rw [List.getElem?_drop]; exact htrailer
      simpa [hend] using hread
    refine ⟨rest.take l.toNat, hi, lo, hfit, ?_⟩
    rw [frameWith, hfit, BitVec.ofNat_toNat, BitVec.setWidth_eq, ← hlast, ← hsplit]
  | [] | [_] | [_, _] | [_, _, _] => cases h3

end

theorem toNat_lengthByte {payload : List Byte} (hlen : payload.length ≤ 255) :
    (BitVec.ofNat 8 payload.length).toNat = payload.length :=
  Nat.mod_eq_of_lt (by omega)

section
variable (address hi lo : Byte) (payload : List Byte)

/-- The last three bytes of a response, by their place (R137). -/
theorem getElem?_frameWith_tail (k : Nat) :
    (frameWith address payload hi lo)[payload.length + (k + 4)]? = [hi, lo, frameTrailer][k]? := by
  have htail : (payload ++ [hi, lo, frameTrailer])[payload.length + k]? = [hi, lo, frameTrailer][k]? := by
    rw [List.getElem?_append_right (by omega), Nat.add_sub_cancel_left]
  exact htail

theorem passesHeaderChecks_frameWith {payload : List Byte} (hlen : payload.length ≤ 255) :
    PassesHeaderChecks address (BitVec.ofNat 8 payload.length) (frameWith address payload hi lo) where
  startsWithPrefix := rfl
  fromAddress := rfl
  hasFunc := rfl
  hasLength := rfl
  length := by simp [frameWith, toNat_lengthByte hlen, -BitVec.toNat_ofNat]
  endsWithTrailer := by
    rw [toNat_lengthByte hlen]
    exact getElem?_frameWith_tail address hi lo payload 2

/-- On a response of R90's shape check (e) decides: the checksum (R137). -/
theorem parseResponse_frameWith {payload : List Byte} (hlen : payload.length ≤ 255) :
    parseResponse address (frameWith address payload hi lo) =
      let r := crcRun crcInit (coveredBytes address payload)
      if swap16 r ≠ hi ++ lo then .fail .checksumMismatch (swap16 r) (hi ++ lo) false (some r)
      else .succeed payload (swap16 r) (hi ++ lo) r := by
  rw [(passesHeaderChecks_frameWith address hi lo hlen).parseResponse_eq, toNat_lengthByte hlen]
  have hcovered : ((frameWith address payload hi lo).drop 1).take (payload.length + 3) =
      coveredBytes address payload := by
    simp [frameWith, coveredBytes]
  have hpayload : ((frameWith address payload hi lo).drop 4).take payload.length = payload := by
    simp [frameWith]
  have hhi := getElem?_frameWith_tail address hi lo payload 0
  have hlo := getElem?_frameWith_tail address hi lo payload 1
  simp only [checkSum, hcovered, hpayload, List.getD_eq_getElem?_getD, hhi, hlo, asU16_be16]
  rfl

/-- A response frame is one whose two bytes are the checksum, high byte first (R90). -/
theorem responseFrame_eq_frameWith : responseFrame address payload =
    let c := swap16 (crcRun crcInit (coveredBytes address payload))
    frameWith address payload (highByte c) (lowByte c) := by
  simp [responseFrame, frameWith, coveredBytes, checksum16, highByte, lowByte, framePrefix, frameFunc, frameTrailer]

end

/-- PARSE gives back the payload of a response frame of the expected address (R143 (4)). -/
theorem parseResponse_responseFrame (address : Byte) {payload : List Byte} (hlen : payload.length ≤ 255) :
    ∃ c r, parseResponse address (responseFrame address payload) = .succeed payload c c r := by
  rw [responseFrame_eq_frameWith, parseResponse_frameWith _ _ _ hlen, append_highByte_lowByte]
  exact ⟨_, _, if_neg (not_not.mpr rfl)⟩

/-- Only a response frame of the expected address succeeds, and with its own payload (R90, R137). -/
theorem eq_responseFrame_of_succeed {address : Byte} {rx p : List Byte} {c got r : Half}
    (h : parseResponse address rx = .succeed p c got r) : rx = responseFrame address p := by
  obtain ⟨l, hpasses⟩ := passesHeaderChecks_of_succeed h
  obtain ⟨payload, hi, lo, hlen, rfl⟩ := hpasses.eq_frameWith
  have hfit : payload.length ≤ 255 := by have := l.isLt; omega
  rw [parseResponse_frameWith _ _ _ hfit] at h
  dsimp only at h
  split_ifs at h with hsum
  cases h
  rw [responseFrame_eq_frameWith, not_not.mp hsum]
  simp

/-- A stored payload is what the host reads from PAY, where PLEN is its length (R57, R139). -/
theorem State.hostByte_pay_of_stored {s t : State} {p : List Byte}
    (hpay : t.pay = memPutList (resetByte .pay) s.pay 0 p) (hplen : t.plen.toNat = p.length) :
    bytesFrom (t.hostByte .pay) 0 p.length = p := by
  calc bytesFrom (t.hostByte .pay) 0 p.length
      = bytesFrom (memGet (resetByte .pay) t.pay) 0 p.length :=
        bytesFrom_congr fun k _ hk => t.hostByte_pay_of_lt (by omega)
    _ = p := by rw [hpay, bytesFrom_memPutList]

/-- Settles O27: PARSE's result on the received bytes is a success exactly for the response frames. -/
theorem parseSucceedsExactlyOnResponseFrames : Obligations.ParseSucceedsExactlyOnResponseFrames := by
  unfold Obligations.ParseSucceedsExactlyOnResponseFrames
  intro s haddr hrxlen
  obtain ⟨t, h⟩ := execParse_next s
  refine ⟨t, h, ?_⟩
  rcases execParse_cases s h with ⟨hfault, -⟩ | ⟨-, hfault, -⟩ | ⟨-, -, k, e, a, l, c, hp, rfl⟩ |
    ⟨-, -, p, c, r, hp, hlen, rfl⟩
  · omega
  · omega
  · have hno : ∀ payload : List Byte, payload.length ≤ 255 →
        bytesFrom (s.byteAt .rxb) 0 s.rxlen.toNat ≠ responseFrame (s.a0.setWidth 8) payload := by
      intro payload hlen hrx
      obtain ⟨c', r', hsucceed⟩ := parseResponse_responseFrame (asU8 s.a0) hlen
      rw [hrx] at hp
      cases hp.symm.trans hsucceed
    obtain ⟨hkind, -⟩ := parseResponse_fail hp
    exact ⟨⟨fun hs => absurd hs hkind, fun ⟨payload, hlen, hrx⟩ => absurd hrx (hno payload hlen)⟩,
      fun payload hlen hrx => absurd hrx (hno payload hlen)⟩
  · refine ⟨⟨fun _ => ⟨p, hlen, eq_responseFrame_of_succeed hp⟩, fun _ => rfl⟩, fun payload hlen' hrx => ?_⟩
    obtain ⟨c', r', hsucceed⟩ := parseResponse_responseFrame (asU8 s.a0) hlen'
    rw [hrx] at hp
    cases hp.symm.trans hsucceed
    have hplen := toNat_lengthByte hlen'
    exact ⟨hplen, State.hostByte_pay_of_stored (s := s) rfl hplen⟩

/-! ### The request frame -/

/-- The bytes that a request's checksum covers (R88). -/
def requestBody (address : Byte) (start count : Half) : List Byte :=
  [address, frameFunc, highByte start, lowByte start, highByte count, lowByte count]

/-- A request is the start byte, the covered bytes, their checksum high byte first, and the trailer (R88, R131). -/
theorem buildRequest_eq (address : Byte) (start count : Half) :
    buildRequest address start count =
      let c := swap16 (crcRun crcInit (requestBody address start count))
      [framePrefix] ++ requestBody address start count ++ [highByte c, lowByte c, frameTrailer] := rfl

/-- The loose decoder takes the operands out of the covered bytes (R93). -/
theorem looseDecode_buildRequest (address : Byte) (start count : Half) :
    looseDecode (buildRequest address start count) = (address, start, count) := by
  have hfields : looseDecode (buildRequest address start count) =
      (address, asU16 (be16 (highByte start) (lowByte start)), asU16 (be16 (highByte count) (lowByte count))) := rfl
  simp only [hfields, asU16_be16, append_highByte_lowByte]

@[simp] theorem highByte_asU16 (w : Word) : highByte (asU16 w) = w.extractLsb' 8 8 := by
  rw [highByte, asU16, BitVec.extractLsb'_setWidth_of_le]
  decide

@[simp] theorem lowByte_asU16 (w : Word) : lowByte (asU16 w) = w.extractLsb' 0 8 := by
  rw [lowByte, asU16, BitVec.extractLsb'_setWidth_of_le]
  decide

/-! ### BUILD -/

section
variable {s : State}

theorem exec_build_outOfRange (h : 0xFF < s.a0.toNat ∨ 0xFFFF < s.a1.toNat ∨ 0xFFFF < s.a2.toNat) :
    exec .build s = .next (s.latch .opRange) := by
  rw [exec_build, execBuild_eq, if_neg (by omega)]

/-- BUILD stores the request, its register in CRC and its checksum in R0 (R132). -/
theorem exec_build_inRange (h0 : s.a0.toNat ≤ 0xFF) (h1 : s.a1.toNat ≤ 0xFFFF) (h2 : s.a2.toNat ≤ 0xFFFF) :
    let r := crcRun crcInit (requestBody (asU8 s.a0) (asU16 s.a1) (asU16 s.a2))
    exec .build s = .next { s with
      txf := memPutList (resetByte .txf) s.txf 0 (buildRequest (asU8 s.a0) (asU16 s.a1) (asU16 s.a2)),
      crc := r, r0 := (swap16 r).setWidth 32, txv := true } := by
  intro r
  have hplaced : be16 ((buildRequest (asU8 s.a0) (asU16 s.a1) (asU16 s.a2)).getD 7 0)
      ((buildRequest (asU8 s.a0) (asU16 s.a1) (asU16 s.a2)).getD 8 0) = (swap16 r).setWidth 32 := by
    rw [be16_eq_append, ← append_highByte_lowByte (swap16 r)]
    rfl
  have hcrc : swap16 (asU16 ((swap16 r).setWidth 32)) = r := by
    rw [asU16, BitVec.setWidth_setWidth_of_le _ (by decide), BitVec.setWidth_eq, swap16_swap16]
  rw [exec_build, execBuild_eq, if_pos ⟨h0, h1, h2⟩]
  dsimp only
  rw [hplaced, hcrc]
  rfl

end

/-- Settles O23, by BUILD's next state and reading TXF back. -/
theorem buildPlacesTheRequestFrame : Obligations.BuildPlacesTheRequestFrame := by
  unfold Obligations.BuildPlacesTheRequestFrame
  refine ⟨decode_iff.mpr rfl, fun s => ⟨exec_build_outOfRange, fun h0 h1 h2 => ?_⟩⟩
  intro six r c
  have hsix : requestBody (asU8 s.a0) (asU16 s.a1) (asU16 s.a2) = six := by
    simp [requestBody, six, frameFunc, asU8]
  have hr : crcRun crcInit six = r := crcRun_eq_foldl crcInit six
  have hc : swap16 r = c := swap16_eq_append r
  have hbuild := exec_build_inRange h0 h1 h2
  simp only [hsix, hr, hc] at hbuild
  refine ⟨_, hbuild, ?_⟩
  have hback := bytesFrom_memPutList (resetByte .txf) s.txf (buildRequest (asU8 s.a0) (asU16 s.a1) (asU16 s.a2))
  rw [length_buildRequest] at hback
  rw [hback, buildRequest_eq, hsix, hr, hc]
  rfl

/-- Settles O24: TXF holds the request, and the loose decoder inverts it. -/
theorem builtFrameGivesBackItsOperands : Obligations.BuiltFrameGivesBackItsOperands := by
  unfold Obligations.BuiltFrameGivesBackItsOperands
  intro s h0 h1 h2
  refine ⟨_, exec_build_inRange h0 h1 h2, ?_⟩
  have hback := bytesFrom_memPutList (resetByte .txf) s.txf (buildRequest (asU8 s.a0) (asU16 s.a1) (asU16 s.a2))
  exact (congrArg looseDecode hback).trans (looseDecode_buildRequest ..)

/-! ### The command words, in numbers -/

/-- The words of the ten commands are 0 to 8 and 15 (R84). -/
theorem exists_encode_eq_iff (w : Word) : (∃ i, encode i = w) ↔ w.toNat ≤ 8 ∨ w.toNat = 15 := by
  constructor
  · rintro ⟨i, rfl⟩
    cases i <;> decide
  · intro hw
    have hrows : ∀ n < 16, n ≤ 8 ∨ n = 15 → ∃ row ∈ opTable, encode row.2 = BitVec.ofNat 32 n := by decide
    obtain ⟨row, -, hrow⟩ := hrows w.toNat (by omega) hw
    exact ⟨row.2, by rw [hrow, BitVec.ofNat_toNat, BitVec.setWidth_eq]⟩

/-- A word is illegal exactly where it is no command's word (R82, R85). -/
theorem decode_error_iff (w : Word) :
    (∃ e, decode w = .error e) ↔ (16 ≤ w.toNat ∨ (9 ≤ w.toNat ∧ w.toNat ≤ 14)) := by
  have hcommand : (∃ i, decode w = .ok i) ↔ w.toNat ≤ 8 ∨ w.toNat = 15 := by
    rw [← exists_encode_eq_iff]
    exact exists_congr fun i => decode_iff.trans eq_comm
  cases hd : decode w with
  | ok i =>
    have := hcommand.mp ⟨i, hd⟩
    simp only [reduceCtorEq, exists_false, false_iff]
    omega
  | error e =>
    have hnone : ¬(w.toNat ≤ 8 ∨ w.toNat = 15) := fun hw => by
      obtain ⟨i, hi⟩ := hcommand.mpr hw
      cases hd.symm.trans hi
    simp only [Except.error.injEq, exists_eq', true_iff]
    omega

/-- Settles O2, by the decoder's two answers. -/
theorem everyWordIsOneCommandOrIllegal : Obligations.EveryWordIsOneCommandOrIllegal := by
  unfold Obligations.EveryWordIsOneCommandOrIllegal
  exact fun w => ⟨fun i => decode_iff.trans eq_comm, decode_error_iff w⟩

/-! ### Issue, clause by clause -/

section
variable {s : State} {w : Word}

/-- While a fault is latched every word but RST's is dropped (R82, R192). -/
theorem issue_of_err (herr : s.err ≠ none) : issue w s = if w = 0x0000000F then exec .rst s else .next s :=
  if_pos (Option.isSome_iff_ne_none.mpr herr)

/-- An illegal word latches ILLCMD (R82). -/
theorem issue_illegal (herr : s.err = none) (hw : 16 ≤ w.toNat ∨ (9 ≤ w.toNat ∧ w.toNat ≤ 14)) :
    issue w s = .next (s.latch .illCmd) := by
  obtain ⟨e, he⟩ := (decode_error_iff w).mpr hw
  simp [issue, herr, he, raise]

/-- Every command's word executes it (R82). -/
theorem issue_encode (herr : s.err = none) (i : Instr) : issue (encode i) s = exec i s :=
  issue_of_decode herr (decode_iff.mpr rfl)

end

/-- Settles O7, by the three ways of Issue. -/
theorem issueFollowsTheLatchAndTheMap : Obligations.IssueFollowsTheLatchAndTheMap := by
  unfold Obligations.IssueFollowsTheLatchAndTheMap
  intro s w
  refine ⟨fun herr hw => ?_, fun herr hw => ?_, fun herr hw => ?_, fun herr hlo hhi => ?_, fun herr => ?_⟩
  · rw [issue_of_err herr, if_pos hw]
  · rw [issue_of_err herr, if_neg hw]
  · exact issue_illegal herr (.inl hw)
  · exact issue_illegal herr (.inr ⟨hlo, hhi⟩)
  · have hissue := issue_encode herr
    exact ⟨hissue .nop, hissue .cksum, hissue .build, hissue .parse, hissue .be16, hissue .scale, hissue .dword,
      hissue .kwh, hissue .ldw, hissue .rst⟩

/-- Settles O1: the ten words of R84's map and of its gaps, decoded. -/
theorem wordsOfTheMapDecode : Obligations.WordsOfTheMapDecode := by
  unfold Obligations.WordsOfTheMapDecode
  decide

/-! ### Running a script -/

section
variable {M : Host.Core}

/-- A run goes on from what its first step answers. -/
theorem run_succ_of_step {s t : M.State} (h : M.step s = .next t) (k : Nat) : M.run (k + 1) s = M.run k t := by
  rw [Host.Core.run, h]

theorem run_one (s : M.State) : M.run 1 s = M.step s := by
  rw [Host.Core.run]
  cases M.step s <;> rfl

end

section
variable {s t : State} {rest : List Access}

/-- A run serves the first access of the script and goes on. -/
theorem run_succ_of_serve {a : Access} (h : serve a (s.setScript rest) = .next t) (k : Nat) :
    core.run (k + 1) (s.setScript (a :: rest)) = core.run k t :=
  run_succ_of_step (M := core) (s := s.setScript (a :: rest)) h k

/-- The run of a command statement is the command (R95). -/
theorem run_command (herr : s.err = none) (i : Instr) :
    core.run 1 (s.setScript (Script.command i :: rest)) = exec i (s.setScript rest) := by
  have hstep : core.step (s.setScript (Script.command i :: rest)) = issue (encode i) (s.setScript rest) := rfl
  exact (run_one (M := core) _).trans (hstep.trans (issue_of_decode herr (decode_iff.mpr rfl)))

/-! ### Operand writes, then a command (R96) -/

theorem run_wr_a0 (x : Word) (k : Nat) :
    core.run (k + 1) (s.setScript (Script.wr .a0 x :: rest)) = core.run k (State.setScript { s with a0 := x } rest) :=
  run_succ_of_serve rfl k

theorem run_wr_a1 (y : Word) (k : Nat) :
    core.run (k + 1) (s.setScript (Script.wr .a1 y :: rest)) = core.run k (State.setScript { s with a1 := y } rest) :=
  run_succ_of_serve rfl k

theorem run_wr_a2 (z : Word) (k : Nat) :
    core.run (k + 1) (s.setScript (Script.wr .a2 z :: rest)) = core.run k (State.setScript { s with a2 := z } rest) :=
  run_succ_of_serve rfl k

theorem run_oneOperand (herr : s.err = none) (i : Instr) (x : Word) :
    core.run 2 (s.setScript (Script.wr .a0 x :: Script.command i :: rest)) =
      exec i { s with a0 := x, script := rest } :=
  (run_wr_a0 x 1).trans (run_command (s := { s with a0 := x }) herr i)

theorem run_twoOperands (herr : s.err = none) (i : Instr) (x y : Word) :
    core.run 3 (s.setScript (Script.wr .a0 x :: Script.wr .a1 y :: Script.command i :: rest)) =
      exec i { s with a0 := x, a1 := y, script := rest } :=
  (run_wr_a0 x 2).trans ((run_wr_a1 y 1).trans (run_command (s := { s with a0 := x, a1 := y }) herr i))

theorem run_threeOperands (herr : s.err = none) (i : Instr) (x y z : Word) :
    core.run 4 (s.setScript (Script.wr .a0 x :: Script.wr .a1 y :: Script.wr .a2 z :: Script.command i :: rest)) =
      exec i { s with a0 := x, a1 := y, a2 := z, script := rest } :=
  (run_wr_a0 x 3).trans ((run_wr_a1 y 2).trans ((run_wr_a2 z 1).trans
    (run_command (s := { s with a0 := x, a1 := y, a2 := z }) herr i)))

/-- Storing bytes one at a time stores the list (R96). -/
theorem run_storeFrom (bytes : List Byte) (s : State) (i k : Nat) (h : i + bytes.length ≤ 262) :
    core.run (bytes.length + k) (s.setScript (Script.storeFrom i bytes ++ rest)) =
      core.run k ((s.setBuf .rxb (memPutList (resetByte .rxb) s.rxb i bytes)).setScript rest) := by
  induction bytes generalizing s i with
  | nil => simp [Script.storeFrom, memPutList, State.setBuf_of_rxb]
  | cons b bytes ih =>
    rw [List.length_cons] at h ⊢
    have hbyte : serve (Script.wb i b) (s.setScript (Script.storeFrom (i + 1) bytes ++ rest)) =
        .next ((s.setBuf .rxb (memPut (resetByte .rxb) s.rxb i b)).setScript
          (Script.storeFrom (i + 1) bytes ++ rest)) := by
      have hi : i < Buf.size .rxb := by simp only [Buf.size, Config.rxbSize]; omega
      rw [Script.wb, serve_encodeTransaction _ (t := .bufWrite .rxb i b) (decide_eq_true hi),
        perform_bufWrite _ _ hi, writeByte_rxb _ _ hi]
      rfl
    rw [Nat.add_right_comm, Script.storeFrom, List.cons_append, run_succ_of_serve hbyte, ih _ _ (by omega)]
    rfl

/-- LOADRX stores the bytes and their number (R96). -/
theorem run_loadRx (bytes : List Byte) (s : State) (h : bytes.length ≤ 262) :
    core.run (bytes.length + 1) (s.setScript (Script.loadRx bytes ++ rest)) =
      .next { s with
        rxb := memPutList (resetByte .rxb) s.rxb 0 bytes, rxlen := BitVec.ofNat 9 bytes.length, script := rest } := by
  have hlow : (BitVec.ofNat 32 bytes.length).setWidth 9 = BitVec.ofNat 9 bytes.length :=
    BitVec.setWidth_ofNat_of_le (by decide) _
  rw [Script.loadRx, List.append_assoc, run_storeFrom bytes s 0 1 (by omega), List.singleton_append,
    run_succ_of_serve (t := _) rfl, ← hlow]
  rfl

end

/-- Settles O48: the operand writes reach their registers, then the command runs; LOADRX by the bytes it stores. -/
theorem pseudoStatementsRunAsTheirExpansions : Obligations.PseudoStatementsRunAsTheirExpansions := by
  unfold Obligations.PseudoStatementsRunAsTheirExpansions
  intro s x y z rest herr
  refine ⟨run_threeOperands herr .build x y z, fun b => ?_, run_oneOperand herr .parse x, run_oneOperand herr .ldw x,
    run_twoOperands herr .be16 x y, run_twoOperands herr .scale x y, run_twoOperands herr .dword x y,
    run_twoOperands herr .kwh x y, fun bytes hlen => ⟨_, run_loadRx bytes s hlen, fun i => ?_⟩⟩
  · cases b with
    | txf => exact run_threeOperands herr .cksum 0 y z
    | rxb => exact run_threeOperands herr .cksum 1 y z
    | pay => exact run_threeOperands herr .cksum 2 y z
  · rw [memGet_memPutList, if_pos (Nat.zero_le i), Nat.sub_zero, List.getD_eq_getElem?_getD]
    rfl

end Sys2Proof.Machine

namespace Sys2Proof.Machine
open Sys2Proof.Slice0

/-! ### The steps of the checksum register -/

/-- A bit step shifts right, and XORs the polynomial where the bit shifted out was 1 (R110). -/
theorem getLsbD_crcBit (r : Half) (k : Nat) :
    (crcBit r).getLsbD k = (r.getLsbD (k + 1) ^^ (r.getLsbD 0 && crcPoly.getLsbD k)) := by
  rw [crcBit, Nat.add_comm k 1]
  cases h0 : r.getLsbD 0 with
  | true => rw [if_pos rfl, BitVec.getLsbD_xor, BitVec.getLsbD_ushiftRight, Bool.true_and]
  | false => rw [if_neg Bool.false_ne_true, BitVec.getLsbD_ushiftRight, Bool.false_and, Bool.xor_false]

/-- No bit above bit 15 is shifted in. -/
theorem getLsbD_succ_half (r : Half) (k : Nat) : r.getLsbD (k + 1) = (decide (k < 15) && r.getLsbD (k + 1)) := by
  by_cases hk : k < 15
  · rw [decide_eq_true hk, Bool.true_and]
  · rw [decide_eq_false hk, Bool.false_and, BitVec.getLsbD_of_ge r (k + 1) (by omega)]

theorem crcBits_eq_iterate (n : Nat) (r : Half) : crcBits n r = crcBit^[n] r := by
  induction n generalizing r with
  | zero => rfl
  | succ n ih => rw [crcBits_succ, ih, Function.iterate_succ_apply]

/-- Settles O19, by the bits of a bit step and the bit steps as an iteration. -/
theorem crcStepsShiftRightAndXor : Obligations.CrcStepsShiftRightAndXor := by
  unfold Obligations.CrcStepsShiftRightAndXor
  refine ⟨fun r k _ => ?_, fun r b => crcBits_eq_iterate 8 _⟩
  rw [getLsbD_crcBit, ← getLsbD_succ_half, crcPoly]

/-! ### The register over a range -/

/-- A range inside a list, byte by byte in ascending order. -/
theorem take_drop_eq_map_getD (bytes : List Byte) {offset count : Nat} (h : offset + count ≤ bytes.length) :
    (bytes.drop offset).take count = (List.range count).map fun i => bytes.getD (offset + i) 0 := by
  apply List.ext_getElem
  · simp only [List.length_take, List.length_drop, List.length_map, List.length_range]
    omega
  · intro i _ hi
    rw [List.length_map, List.length_range] at hi
    rw [List.getElem_take, List.getElem_drop, List.getElem_map, List.getElem_range,
      List.getD_eq_getElem _ _ (by omega)]

/-- Settles O20: the range is the list of its bytes, and the register's swap in numbers. -/
theorem checksumFoldsTheRangeAndSwaps : Obligations.ChecksumFoldsTheRangeAndSwaps := by
  unfold Obligations.ChecksumFoldsTheRangeAndSwaps
  intro bytes offset count h
  rw [checksum16, swap16_toNat, crcRun_eq_foldl, take_drop_eq_map_getD bytes h]
  rfl

theorem crcRun_bytesFrom (s : State) (b : Buf) (i n : Nat) :
    crcRun crcInit (bytesFrom (s.byteAt b) i n) = registerOver s b i n := by
  rw [crcRun_eq_foldl, bytesFrom_eq_map]
  rfl

/-! ### CKSUM -/

section
variable {s : State}

theorem exec_cksum_opRange (h : 2 < s.a0.toNat) : exec .cksum s = .next (s.latch .opRange) := by
  rw [exec_cksum, execCksum_eq, selectBuf_none_iff.mpr h]

/-- Where RXLEN names more bytes than RXB has, or the range ends past the buffer's limit, CKSUM latches BUFRANGE. -/
theorem exec_cksum_bufRange {b : Buf} (hsel : selectBuf s.a0 = some b)
    (h : (b = .rxb → s.rxlen.toNat ≤ 262) → s.limit b < s.a1.toNat + s.a2.toNat) :
    exec .cksum s = .next (s.latch .bufRange) := by
  rw [exec_cksum, execCksum_eq, hsel]
  exact congrArg _ (if_neg fun ⟨hrx, hle⟩ => Nat.not_lt.mpr hle (h hrx))

/-- In range, CKSUM writes the register to CRC and its byte swap to R0. -/
theorem exec_cksum_inRange {b : Buf} (hsel : selectBuf s.a0 = some b) (hrx : b = .rxb → s.rxlen.toNat ≤ 262)
    (hle : s.a1.toNat + s.a2.toNat ≤ s.limit b) :
    let r := registerOver s b s.a1.toNat s.a2.toNat
    exec .cksum s = .next { s with crc := r, r0 := (swap16 r).setWidth 32 } := by
  intro r
  rw [exec_cksum, execCksum_eq, hsel]
  dsimp only
  rw [if_pos ⟨hrx, hle⟩, crcRun_bytesFrom]
  rfl

end

/-- The word R0 takes, in numbers. -/
theorem toNat_setWidth_swap16 (r : Half) :
    ((swap16 r).setWidth 32 : Word).toNat = (r.toNat % 256) * 256 + r.toNat / 256 := by
  rw [BitVec.toNat_setWidth_of_le (by decide), swap16_toNat]

/-- Settles O22: the select, then the fault or the sum. -/
theorem cksumChecksTheRangeThenSums : Obligations.CksumChecksTheRangeThenSums := by
  unfold Obligations.CksumChecksTheRangeThenSums
  refine ⟨decode_iff.mpr rfl, fun s => ⟨exec_cksum_opRange, fun h0 hrx => ?_, fun b limit hrow => ?_⟩⟩
  · exact exec_cksum_bufRange (selectBuf_some_iff.mpr (.inr (.inl ⟨h0, rfl⟩))) fun hle => by
      have := hle rfl
      omega
  · have hrows : selectBuf s.a0 = some b ∧ (b = .rxb → s.rxlen.toNat ≤ 262) ∧ limit = s.limit b := by
      rw [selectBuf_some_iff]
      rcases hrow with ⟨h0, rfl, rfl⟩ | ⟨h1, hrx, rfl, rfl⟩ | ⟨h2, rfl, rfl⟩
      · exact ⟨.inl ⟨h0, rfl⟩, nofun, rfl⟩
      · exact ⟨.inr (.inl ⟨h1, rfl⟩), fun _ => hrx, rfl⟩
      · exact ⟨.inr (.inr ⟨h2, rfl⟩), nofun, rfl⟩
    obtain ⟨hsel, hrx, rfl⟩ := hrows
    exact ⟨fun hlt => exec_cksum_bufRange hsel fun _ => hlt,
      fun hle => ⟨_, toNat_setWidth_swap16 _, exec_cksum_inRange hsel hrx hle⟩⟩

end Sys2Proof.Machine

namespace Sys2Proof.Machine
open Sys2Proof.Slice0

/-! ### The invariant's two parts: the request frame, and PARSE's verdict -/

/-- What the invariant says of TXF and TXV (R134, R35). -/
structure State.RequestInv (s : State) : Prop where
  built : s.txv = true → s.txfBuilt
  unbuilt : s.txv = false → s.txf = []

/-- What the invariant says of the fields that PARSE writes (R57, R28, R139, R241). -/
structure State.VerdictInv (s : State) : Prop where
  payloadNeedsSuccess : s.plen ≠ 0 → s.outcome = .success
  lenErrNeedsTrailer : s.lenErr = true → s.outcome = .missingTrailer
  successAgrees : s.outcome = .success → s.diagExp = s.diagAct
  beforeParse : s.outcome = .noParse → s.diagExp = 0 ∧ s.diagAct = 0 ∧ s.pay = []

theorem State.inv_iff (s : State) : s.Inv ↔ s.memWf = true ∧ s.RequestInv ∧ s.VerdictInv :=
  ⟨fun h => ⟨h.canonical, ⟨h.built, h.unbuilt⟩,
      ⟨h.payloadNeedsSuccess, h.lenErrNeedsTrailer, h.successAgrees, h.beforeParse⟩⟩,
    fun ⟨hmem, hreq, hverdict⟩ => ⟨hmem, hreq.built, hreq.unbuilt, hverdict.payloadNeedsSuccess,
      hverdict.lenErrNeedsTrailer, hverdict.successAgrees, hverdict.beforeParse⟩⟩

section
variable {s t : State}

theorem State.memWf_congr (htxf : t.txf = s.txf) (hrxb : t.rxb = s.rxb) (hpay : t.pay = s.pay) : t.memWf = s.memWf := by
  simp only [State.memWf, State.bufWf, State.buf_of_txf, State.buf_of_rxb, State.buf_of_pay, htxf, hrxb, hpay]

theorem State.RequestInv.congr (h : s.RequestInv) (hsame : t.txf = s.txf ∧ t.txv = s.txv) : t.RequestInv := by
  obtain ⟨htxf, htxv⟩ := hsame
  have hbyte : t.byteAt .txf = s.byteAt .txf := by
    funext i
    simp only [State.byteAt, State.buf_of_txf, htxf]
  constructor
  · rw [htxv, State.txfBuilt, hbyte]
    exact h.built
  · rw [htxv, htxf]
    exact h.unbuilt

theorem State.VerdictInv.congr (h : s.VerdictInv) (hsame : t.outcome = s.outcome ∧ t.lenErr = s.lenErr ∧
    t.plen = s.plen ∧ t.diagExp = s.diagExp ∧ t.diagAct = s.diagAct ∧ t.pay = s.pay) : t.VerdictInv := by
  obtain ⟨houtcome, hlenErr, hplen, hexp, hact, hpay⟩ := hsame
  constructor
  · rw [hplen, houtcome]
    exact h.payloadNeedsSuccess
  · rw [hlenErr, houtcome]
    exact h.lenErrNeedsTrailer
  · rw [houtcome, hexp, hact]
    exact h.successAgrees
  · rw [houtcome, hexp, hact, hpay]
    exact h.beforeParse

/-- The invariant speaks of the buffers and of what BUILD and PARSE write. -/
theorem State.Inv.congr (h : s.Inv) (hrxb : t.rxb = s.rxb) (hreq : t.txf = s.txf ∧ t.txv = s.txv)
    (hverdict : t.outcome = s.outcome ∧ t.lenErr = s.lenErr ∧ t.plen = s.plen ∧ t.diagExp = s.diagExp ∧
      t.diagAct = s.diagAct ∧ t.pay = s.pay) : t.Inv := by
  obtain ⟨hmem, hr, hv⟩ := s.inv_iff.mp h
  have hpay : t.pay = s.pay := by
    obtain ⟨-, -, -, -, -, hpay⟩ := hverdict
    exact hpay
  exact t.inv_iff.mpr ⟨(State.memWf_congr hreq.1 hrxb hpay).trans hmem, hr.congr hreq, hv.congr hverdict⟩

theorem State.Inv.latch (h : s.Inv) (c : CommandFault) : (s.latch c).Inv :=
  h.congr rfl ⟨rfl, rfl⟩ ⟨rfl, rfl, rfl, rfl, rfl, rfl⟩

/-! ### The commands that write what the invariant speaks of -/

/-- The request that BUILD leaves in TXF is a frame fit to send (R88, R134). -/
theorem State.txfBuilt_of_buildRequest {address : Byte} {start count : Half}
    (h : bytesFrom (s.byteAt .txf) 0 10 = buildRequest address start count) : s.txfBuilt := by
  have hbyte : ∀ {k b}, k < 10 → (buildRequest address start count)[k]? = some b → s.byteAt .txf k = b := by
    intro k b hk hb
    rw [← h, getElem?_bytesFrom, if_pos hk, Nat.zero_add] at hb
    exact Option.some.inj hb
  refine ⟨hbyte (by decide) rfl, hbyte (by decide) rfl, hbyte (by decide) rfl, ?_⟩
  rw [h, hbyte (k := 7) (by decide) rfl, hbyte (k := 8) (by decide) rfl, be16_eq_append, append_highByte_lowByte]
  rfl

theorem State.Inv.of_exec_build (h : s.Inv) (hx : exec .build s = .next t) : t.Inv := by
  by_cases hrange : s.a0.toNat ≤ 0xFF ∧ s.a1.toNat ≤ 0xFFFF ∧ s.a2.toNat ≤ 0xFFFF
  · obtain ⟨h0, h1, h2⟩ := hrange
    obtain ⟨hmem, -, hverdict⟩ := s.inv_iff.mp h
    rw [exec_build_inRange h0 h1 h2] at hx
    cases hx
    refine (State.inv_iff _).mpr ⟨State.memWf_setBuf_putList .txf 0 _ hmem le_rfl, ⟨fun _ => ?_, nofun⟩,
      hverdict.congr ⟨rfl, rfl, rfl, rfl, rfl, rfl⟩⟩
    exact State.txfBuilt_of_buildRequest (bytesFrom_memPutList (resetByte .txf) s.txf (buildRequest ..))
  · rw [exec_build_outOfRange (by omega)] at hx
    cases hx
    exact h.latch _

theorem State.Inv.of_exec_parse (h : s.Inv) (hx : exec .parse s = .next t) : t.Inv := by
  obtain ⟨hmem, hreq, -⟩ := s.inv_iff.mp h
  rcases execParse_cases s hx with
    ⟨-, rfl⟩ | ⟨-, -, rfl⟩ | ⟨-, -, k, e, a, l, c, hp, rfl⟩ | ⟨-, -, p, c, r, -, hlen, rfl⟩
  · exact h.latch _
  · exact h.latch _
  · obtain ⟨hsuccess, hnone, htrailer⟩ := parseResponse_fail hp
    have hverdict : ((((s.setCrcIf c).setVerdict k l 0 e a).setR0 ((outcomeCode k).setWidth 32)).setR1 0).VerdictInv :=
      ⟨absurd rfl, htrailer, fun hs => absurd hs hsuccess, fun hn => absurd hn hnone⟩
    cases c with
    | none | some => exact (State.inv_iff _).mpr ⟨hmem, hreq.congr ⟨rfl, rfl⟩, hverdict⟩
  · refine (State.inv_iff _).mpr ⟨State.memWf_setBuf_putList .pay 0 p hmem ?_, hreq.congr ⟨rfl, rfl⟩, ?_⟩
    · rw [Nat.zero_add]
      exact hlen
    · exact ⟨fun _ => rfl, nofun, fun _ => rfl, nofun⟩

/-! ### Every command, every access and every step keeps it -/

theorem State.Inv.resetBlock (s : State) : s.resetBlock.Inv :=
  resetMeetsTheInvariant.congr rfl ⟨rfl, rfl⟩ ⟨rfl, rfl, rfl, rfl, rfl, rfl⟩

theorem State.Inv.of_exec {i : Instr} (h : s.Inv) (hx : exec i s = .next t) : t.Inv := by
  by_cases hrst : i = .rst
  · subst hrst
    cases hx
    exact .resetBlock s
  by_cases hbuild : i = .build
  · subst hbuild
    exact h.of_exec_build hx
  by_cases hparse : i = .parse
  · subst hparse
    exact h.of_exec_parse hx
  have hf := exec_frame hrst hx
  obtain ⟨-, -, -, -, hrxb⟩ := hf.hostWritten
  exact h.congr hrxb (hf.request hbuild) (hf.verdict hparse)

theorem State.Inv.of_issue {w : Word} (h : s.Inv) (hx : issue w s = .next t) : t.Inv := by
  rcases issue_cases hx with ⟨-, -, rfl⟩ | ⟨-, -, rfl⟩ | ⟨-, i, -, hi⟩ | ⟨-, -, rfl⟩
  · exact .resetBlock s
  · exact h
  · exact h.of_exec hi
  · exact h.latch _

theorem State.Inv.of_served {a : Access} (h : s.Inv) (hserved : Served s a t) : t.Inv := by
  cases hserved with
  | read | ignored | setA0 | setA1 | setA2 | setRxlen =>
    exact h.congr rfl ⟨rfl, rfl⟩ ⟨rfl, rfl, rfl, rfl, rfl, rfl⟩
  | store i v hi =>
    obtain ⟨hmem, hreq, hverdict⟩ := s.inv_iff.mp h
    exact (State.inv_iff _).mpr ⟨State.memWf_setBuf_putList .rxb i [v] hmem hi, hreq.congr ⟨rfl, rfl⟩,
      hverdict.congr ⟨rfl, rfl, rfl, rfl, rfl, rfl⟩⟩
  | command w _ hw => exact h.of_issue hw
  | reset => exact .resetBlock s

end

/-- Settles O46: a step serves one access, and only BUILD, PARSE, a stored byte and the resets write what the invariant
speaks of. -/
theorem everyStepKeepsTheInvariant : Obligations.EveryStepKeepsTheInvariant := by
  unfold Obligations.EveryStepKeepsTheInvariant
  intro s t h hstep
  rcases step_cases hstep with ⟨-, rfl⟩ | ⟨a, rest, -, hserved⟩
  · exact h
  · have hscript : (s.setScript rest).Inv := h.congr rfl ⟨rfl, rfl⟩ ⟨rfl, rfl, rfl, rfl, rfl, rfl⟩
    exact hscript.of_served hserved

/-! ### The bytes PARSE reads -/

/-- `RXB[0 .. RXLEN−1]`, the response that PARSE validates (R136). -/
def State.receivedBytes (s : State) : List Byte := bytesFrom (s.byteAt .rxb) 0 s.rxlen.toNat

section
variable (s : State)

@[simp] theorem State.length_receivedBytes : s.receivedBytes.length = s.rxlen.toNat := length_bytesFrom ..

/-- The list holds `byte(i)` of R136 at each place. -/
theorem State.getElem?_receivedBytes (i : Nat) : s.receivedBytes[i]? = received s i := by
  rw [State.receivedBytes, getElem?_bytesFrom, Nat.zero_add, received]

theorem State.getElem?_receivedBytes_of_lt {i : Nat} (h : i < s.rxlen.toNat) :
    s.receivedBytes[i]? = some (s.byteAt .rxb i) := by
  rw [State.getElem?_receivedBytes, received, if_pos h]

theorem bytesFrom_memPut (d : Nat → Byte) (m : Mem) (i n : Nat) (v : Byte) :
    bytesFrom (memGet d (memPut d m i v)) 0 n = (bytesFrom (memGet d m) 0 n).set i v := by
  apply List.ext_getElem?
  intro k
  rw [List.getElem?_set, getElem?_bytesFrom, getElem?_bytesFrom, length_bytesFrom, Nat.zero_add, memGet_memPut]
  by_cases hk : i = k
  · subst hk
    simp
  · simp [hk, Ne.symm hk]

/-- A changed byte of RXB is that byte changed among those received. -/
theorem State.receivedBytes_memPut (i : Nat) (v : Byte) :
    State.receivedBytes { s with rxb := memPut (resetByte .rxb) s.rxb i v } = s.receivedBytes.set i v :=
  bytesFrom_memPut (resetByte .rxb) s.rxb i s.rxlen.toNat v

end

/-! ### PARSE's command faults, and its result on the received bytes -/

section
variable {s : State}

theorem exec_parse_opRange (h : 0xFF < s.a0.toNat) : exec .parse s = .next (s.latch .opRange) := by
  rw [exec_parse, execParse_eq, if_neg (by omega)]

theorem exec_parse_bufRange (h0 : s.a0.toNat ≤ 0xFF) (h1 : 262 < s.rxlen.toNat) :
    exec .parse s = .next (s.latch .bufRange) := by
  rw [exec_parse, execParse_eq, if_pos h0, if_neg (by omega)]

theorem exec_parse_inRange (h0 : s.a0.toNat ≤ 0xFF) (h1 : s.rxlen.toNat ≤ 262) :
    exec .parse s = writeBack (parseResponse (asU8 s.a0) s.receivedBytes) s := by
  rw [exec_parse, execParse_eq, if_pos h0, if_pos h1, State.receivedBytes]

/-- In range PARSE ends in a failure that has written the verdict, or in a success. -/
theorem exec_parse_inRange_cases {t : State} (h0 : s.a0.toNat ≤ 0xFF) (h1 : s.rxlen.toNat ≤ 262)
    (h : exec .parse s = .next t) :
    (t.outcome ≠ .success ∧ t.plen = 0) ∨
    (t.outcome = .success ∧ ∃ p c r, p.length ≤ 255 ∧ t.plen = BitVec.ofNat 8 p.length ∧
      parseResponse (asU8 s.a0) s.receivedBytes = .succeed p c c r) := by
  rcases execParse_cases s h with ⟨hfault, -⟩ | ⟨-, hfault, -⟩ | ⟨-, -, k, e, a, l, c, hp, rfl⟩ |
    ⟨-, -, p, c, r, hp, hlen, rfl⟩
  · omega
  · omega
  · obtain ⟨hkind, -⟩ := parseResponse_fail hp
    exact .inl ⟨hkind, rfl⟩
  · exact .inr ⟨rfl, p, c, r, hlen, rfl, hp⟩

end

/-- Settles O26: the checks of A0 and RXLEN stand before the response is read. -/
theorem parseFaultsBeforeAnyCheck : Obligations.ParseFaultsBeforeAnyCheck := by
  unfold Obligations.ParseFaultsBeforeAnyCheck
  exact ⟨decode_iff.mpr rfl, fun s => ⟨exec_parse_opRange, exec_parse_bufRange⟩⟩

/-- Without a payload LDW latches NOPAYLOAD (R175). -/
theorem exec_ldw_noPayload {s : State} (h : s.outcome ≠ .success) : exec .ldw s = .next (s.latch .noPayload) := by
  rw [exec_ldw, execLdw_eq, if_neg h]

/-- Settles O29: a failure leaves PLEN 0, so PAY is masked whole, and no Success for LDW. -/
theorem failedParseExposesNoPayload : Obligations.FailedParseExposesNoPayload := by
  unfold Obligations.FailedParseExposesNoPayload
  intro s t h0 h1 h hfailed
  rcases exec_parse_inRange_cases h0 h1 h with ⟨-, hplen⟩ | ⟨hsuccess, -⟩
  · refine ⟨fun i hi => ?_, exec_ldw_noPayload hfailed⟩
    rw [perform_bufRead t (b := .pay) hi, t.hostByte_pay_of_le (by simp [hplen])]
    rfl
  · exact absurd hsuccess hfailed

/-! ### A changed payload byte -/

/-- One changed byte changes the register for good (R143 (2)). -/
theorem crcRun_set_ne (r : Half) {bytes : List Byte} {i : Nat} {v : Byte} (hi : i < bytes.length) (hv : v ≠ bytes[i]) :
    crcRun r (bytes.set i v) ≠ crcRun r bytes := by
  induction bytes generalizing r i with
  | nil => cases hi
  | cons b rest ih =>
    cases i with
    | zero =>
      intro heq
      exact hv (crcByte_byte_injective r (crcRun_register_injective rest heq))
    | succ i => exact ih (crcByte r b) (Nat.lt_of_succ_lt_succ hi) hv

/-- Changing a payload byte of a response keeps its shape. -/
theorem frameWith_set (address hi lo : Byte) {payload : List Byte} {i : Nat} (v : Byte) (h : i < payload.length) :
    (frameWith address payload hi lo).set (4 + i) v = frameWith address (payload.set i v) hi lo := by
  rw [Nat.add_comm]
  simp [frameWith, List.set_append_left _ _ h]

theorem coveredBytes_set (address : Byte) (payload : List Byte) (i : Nat) (v : Byte) :
    coveredBytes address (payload.set i v) = (coveredBytes address payload).set (i + 3) v := by
  simp [coveredBytes]

theorem getElem?_responseFrame_payload (address : Byte) {payload : List Byte} {i : Nat} (h : i < payload.length) :
    (responseFrame address payload)[4 + i]? = some payload[i] := by
  rw [responseFrame_eq_frameWith, Nat.add_comm]
  simp [frameWith, List.getElem?_append_left, h]

/-- A response frame with one payload byte changed fails the checksum (R137, R143 (2)). -/
theorem parseResponse_changedPayload (address : Byte) {payload : List Byte} {i : Nat} {v : Byte}
    (hlen : payload.length ≤ 255) (hi : i < payload.length) (hv : v ≠ payload[i]) :
    ∃ c got r, parseResponse address ((responseFrame address payload).set (4 + i) v) =
      .fail .checksumMismatch c got false (some r) := by
  have hsum : swap16 (crcRun crcInit (coveredBytes address (payload.set i v))) ≠
      swap16 (crcRun crcInit (coveredBytes address payload)) := by
    refine (Function.LeftInverse.injective swap16_swap16).ne ?_
    rw [coveredBytes_set]
    exact crcRun_set_ne crcInit (by simpa [coveredBytes] using hi) (by simpa [coveredBytes] using hv)
  rw [responseFrame_eq_frameWith, frameWith_set _ _ _ v hi,
    parseResponse_frameWith _ _ _ (by rwa [List.length_set]), append_highByte_lowByte]
  exact ⟨_, _, _, if_pos hsum⟩

/-- Settles O28: the payload byte is covered by the checksum, and the register tells the two frames apart. -/
theorem changedPayloadByteIsDetected : Obligations.ChangedPayloadByteIsDetected := by
  unfold Obligations.ChangedPayloadByteIsDetected
  intro s t i v h0 h1 h hsuccess hi hv
  rcases exec_parse_inRange_cases h0 h1 h with ⟨hfailed, -⟩ | ⟨-, p, c, r, hlen, hplen, hp⟩
  · exact absurd hsuccess hfailed
  have hrx := eq_responseFrame_of_succeed hp
  obtain ⟨-, hlength, -⟩ := parseResponse_succeed hp
  rw [State.length_receivedBytes] at hlength
  have hlt : i < p.length := by rwa [hplen, toNat_lengthByte hlen] at hi
  have hbyte : s.byteAt .rxb (4 + i) = p[i] := by
    have hread := getElem?_responseFrame_payload (asU8 s.a0) hlt
    rw [← hrx, s.getElem?_receivedBytes_of_lt (by omega)] at hread
    exact Option.some.inj hread
  obtain ⟨c', got, r', hfail⟩ := parseResponse_changedPayload (asU8 s.a0) hlen hlt (hbyte ▸ hv)
  rw [← hrx, ← State.receivedBytes_memPut] at hfail
  have hexec := exec_parse_inRange (s := { s with rxb := memPut (resetByte .rxb) s.rxb (4 + i) v }) h0 h1
  exact ⟨_, hexec.trans ((congrArg (writeBack · _) hfail).trans (writeBack_fail ..)), rfl⟩

/-! ### The checks of PARSE, one by one -/

section
variable {exp l : Byte} {rx : List Byte}

theorem parseResponse_invalidPrefix (h : rx[0]? ≠ some framePrefix) :
    parseResponse exp rx = .fail .invalidPrefix 0x000A (actual rx[0]?) false none := if_pos h

theorem parseResponse_addressMismatch (h0 : rx[0]? = some framePrefix) (h : rx[1]? ≠ some exp) :
    parseResponse exp rx = .fail .addressMismatch (exp.setWidth 16) (actual rx[1]?) false none := by
  rw [parseResponse, if_neg (not_not.mpr h0), if_pos h]

theorem parseResponse_invalidFunctionCode (h0 : rx[0]? = some framePrefix) (h1 : rx[1]? = some exp)
    (h : rx[2]? ≠ some frameFunc) :
    parseResponse exp rx = .fail .invalidFunctionCode 0x0003 (actual rx[2]?) false none := by
  rw [parseResponse, if_neg (not_not.mpr h0), if_neg (not_not.mpr h1), if_pos h]
  rfl

/-- After the checks (a) to (c) check (d) decides (R137). -/
theorem parseResponse_eq_checkTrailer (h0 : rx[0]? = some framePrefix) (h1 : rx[1]? = some exp)
    (h2 : rx[2]? = some frameFunc) : parseResponse exp rx = checkTrailer rx := by
  rw [parseResponse, if_neg (not_not.mpr h0), if_neg (not_not.mpr h1), if_neg (not_not.mpr h2)]

theorem checkTrailer_absent (h : rx[3]? = none) : checkTrailer rx = .fail .missingTrailer 0x000D 0x0100 true none := by
  simp only [checkTrailer, h]
  rfl

theorem checkTrailer_wrongLength (h3 : rx[3]? = some l) (h : rx.length ≠ l.toNat + 7) :
    checkTrailer rx = .fail .missingTrailer 0x000D (actual rx[l.toNat + 6]?) true none := by
  simp only [checkTrailer, h3]
  exact if_pos h

theorem checkTrailer_wrongTrailer (h3 : rx[3]? = some l) (hlen : rx.length = l.toNat + 7)
    (h : rx[l.toNat + 6]? ≠ some frameTrailer) :
    checkTrailer rx = .fail .missingTrailer 0x000D (actual rx[l.toNat + 6]?) false none := by
  simp only [checkTrailer, h3]
  rw [if_neg (not_not.mpr hlen), if_pos h]
  rfl

end

/-! ### Check (e) on the bytes of a buffer -/

theorem take_drop_bytesFrom (f : Nat → Byte) {i k n : Nat} (h : i + k ≤ n) :
    ((bytesFrom f 0 n).drop i).take k = bytesFrom f i k := by
  apply List.ext_getElem?
  intro j
  rw [List.getElem?_take, List.getElem?_drop, getElem?_bytesFrom, getElem?_bytesFrom, Nat.zero_add]
  by_cases hj : j < k
  · rw [if_pos hj, if_pos hj, if_pos (by omega)]
  · rw [if_neg hj, if_neg hj]

theorem getD_bytesFrom (f : Nat → Byte) {i n : Nat} (h : i < n) : (bytesFrom f 0 n).getD i 0 = f i := by
  rw [List.getD_eq_getElem?_getD, getElem?_bytesFrom, if_pos h, Nat.zero_add, Option.getD_some]

/-- Check (e), with the bytes it reads by their place in RXB (R137). -/
theorem checkSum_receivedBytes (s : State) {l : Nat} (hrx : s.rxlen.toNat = l + 7) :
    checkSum s.receivedBytes l =
      let r := registerOver s .rxb 1 (l + 3)
      let got := s.byteAt .rxb (l + 4) ++ s.byteAt .rxb (l + 5)
      if swap16 r ≠ got then .fail .checksumMismatch (swap16 r) got false (some r)
      else .succeed (bytesFrom (s.byteAt .rxb) 4 l) (swap16 r) got r := by
  rw [checkSum, State.receivedBytes, take_drop_bytesFrom _ (by omega), take_drop_bytesFrom _ (by omega),
    getD_bytesFrom _ (by omega), getD_bytesFrom _ (by omega), crcRun_bytesFrom, asU16_be16]

/-! ### The write-backs as whole states -/

theorem actOf_eq_actual (x : Option Byte) : actOf x = actual x := by
  cases x <;> rfl

section
variable (s : State)

/-- A failure writes what R140 names, and CRC only where check (e) was reached. -/
theorem writeBack_fail_eq_failed (k : ValidationOutcome) (e a : Half) (l : Bool) (c : Option Half) :
    writeBack (.fail k e a l c) s = .next ((failed s k ((outcomeCode k).setWidth 32) e a l).setCrcIf c) := by
  cases c <;> rfl

/-- A success copies the payload bytes after the length byte into PAY, and no other (R139). -/
theorem writeBack_succeed_bytesFrom (l : Byte) (c got r : Half) :
    ∃ m : Mem, writeBack (.succeed (bytesFrom (s.byteAt .rxb) 4 l.toNat) c got r) s = .next { s with
        outcome := .success, lenErr := false, plen := l, diagExp := c, diagAct := got, r0 := 0,
        r1 := l.setWidth 32, crc := r, pay := m } ∧
      ∀ i, memGet (resetByte .pay) m i = if i < l.toNat then s.byteAt .rxb (4 + i) else s.byteAt .pay i := by
  have hl := l.isLt
  refine ⟨memPutList (resetByte .pay) s.pay 0 (bytesFrom (s.byteAt .rxb) 4 l.toNat), ?_, fun i => ?_⟩
  · rw [writeBack_succeed _ _ _ _ (by rw [length_bytesFrom]; omega), length_bytesFrom, BitVec.ofNat_toNat,
      BitVec.ofNat_toNat, BitVec.setWidth_eq]
    rfl
  · rw [memGet_memPutList, if_pos (Nat.zero_le i), getElem?_bytesFrom, Nat.sub_zero]
    split_ifs <;> rfl

end

/-- Settles O25: each clause is the check that fails first, and its write-back. -/
theorem parseDecidesByTheFirstFailingCheck : Obligations.ParseDecidesByTheFirstFailingCheck := by
  unfold Obligations.ParseDecidesByTheFirstFailingCheck
  intro s h0 h1 byte exp
  have hbyte : ∀ i, byte i = s.receivedBytes[i]? := fun i => (s.getElem?_receivedBytes i).symm
  have hexec : ∀ {p}, parseResponse exp s.receivedBytes = p → exec .parse s = writeBack p s :=
    fun hp => hp ▸ exec_parse_inRange h0 h1
  have hfail : ∀ {k e a l c}, parseResponse exp s.receivedBytes = .fail k e a l c →
      exec .parse s = .next ((failed s k ((outcomeCode k).setWidth 32) e a l).setCrcIf c) :=
    fun hp => (hexec hp).trans (writeBack_fail_eq_failed s ..)
  refine ⟨fun ha => ?_, fun ha hb => ?_, fun ha hb hc => ?_, fun ha hb hc hd => ?_, fun l ha hb hc hd => ?_⟩
  · rw [hbyte] at ha ⊢
    rw [actOf_eq_actual]
    exact hfail (parseResponse_invalidPrefix ha)
  · rw [hbyte] at ha hb ⊢
    rw [actOf_eq_actual]
    exact hfail (parseResponse_addressMismatch ha hb)
  · rw [hbyte] at ha hb hc ⊢
    rw [actOf_eq_actual]
    exact hfail (parseResponse_invalidFunctionCode ha hb hc)
  · rw [hbyte] at ha hb hc hd
    exact hfail ((parseResponse_eq_checkTrailer ha hb hc).trans (checkTrailer_absent hd))
  rw [hbyte] at ha hb hc hd ⊢
  have hcheck := parseResponse_eq_checkTrailer ha hb hc
  have hlen := s.length_receivedBytes
  have hlast (hrx : s.rxlen.toNat = l.toNat + 7) :=
    s.getElem?_receivedBytes_of_lt (i := l.toNat + 6) (by omega)
  refine ⟨fun hrx => ?_, fun hrx ht => ?_, fun hrx ht => ?_⟩
  · rw [actOf_eq_actual]
    exact hfail (hcheck.trans (checkTrailer_wrongLength hd (hlen ▸ hrx)))
  · have hwrong := checkTrailer_wrongTrailer hd (hlen.trans hrx) (hlast hrx ▸ fun h => ht (Option.some.inj h))
    rw [hlast hrx] at hwrong
    exact hfail (hcheck.trans hwrong)
  · have hpasses : PassesHeaderChecks exp l s.receivedBytes :=
      ⟨ha, hb, hc, hd, hlen.trans hrx, (hlast hrx).trans (congrArg some ht)⟩
    intro r c got
    have hsum : parseResponse exp s.receivedBytes =
        if c ≠ got then .fail .checksumMismatch c got false (some r)
        else .succeed (bytesFrom (s.byteAt .rxb) 4 l.toNat) c got r := by
      rw [show c = swap16 r from (swap16_eq_append r).symm]
      exact hpasses.parseResponse_eq.trans (checkSum_receivedBytes s hrx)
    refine ⟨fun hne => hfail (hsum.trans (if_pos hne)), fun heq => ?_⟩
    rw [hexec (hsum.trans (if_neg (not_not.mpr heq)))]
    exact writeBack_succeed_bytesFrom s l c got r

end Sys2Proof.Machine

namespace Sys2Proof.Machine

/-! ### The Field Decoder's results, in numbers -/

section
variable {x y : Word}

theorem be16_asU8_toNat (hx : x.toNat ≤ 0xFF) (hy : y.toNat ≤ 0xFF) :
    (be16 (asU8 x) (asU8 y)).toNat = x.toNat * 256 + y.toNat := by
  rw [be16_toNat, asU8_toNat hx, asU8_toNat hy]

theorem dword_asU16_toNat (hx : x.toNat ≤ 0xFFFF) (hy : y.toNat ≤ 0xFFFF) :
    (dword (asU16 x) (asU16 y)).toNat = x.toNat * 256 + y.toNat := by
  rw [dword_toNat, asU16_toNat hx, asU16_toNat hy]

theorem kwh_asU16_toNat (hx : x.toNat ≤ 0xFFFF) (hy : y.toNat ≤ 0xFFFF) :
    (kwh (asU16 x) (asU16 y)).toNat = x.toNat * 1000 + y.toNat := by
  rw [kwh_toNat, asU16_toNat hx, asU16_toNat hy]

/-- DWORD's maximum (R170): both words 0xFFFF. -/
theorem dword_toNat_le (x y : Half) : (dword x y).toNat ≤ 0x0100FEFF := by
  have := x.isLt
  have := y.isLt
  rw [dword_toNat]
  omega

/-- KWH's maximum (R173): both words 65535. -/
theorem kwh_toNat_le (x y : Half) : (kwh x y).toNat ≤ 65600535 := by
  have := x.isLt
  have := y.isLt
  rw [kwh_toNat]
  omega

theorem scaled_fst_toNat (raw : Word) {d : Nat} (h : d ≤ 9) : (scaled raw d).1.toNat = raw.toNat / 10 ^ d := by
  rw [scaled, BitVec.toNat_udiv, pow10_toNat h]

theorem scaled_snd_toNat (raw : Word) {d : Nat} (h : d ≤ 9) : (scaled raw d).2.toNat = raw.toNat % 10 ^ d := by
  rw [scaled, BitVec.toNat_umod, pow10_toNat h]

end

/-! ### The Field Decoder's commands: the fault, or the register written -/

section
variable {s : State}

theorem exec_be16_opRange (h : 0xFF < s.a0.toNat ∨ 0xFF < s.a1.toNat) :
    exec .be16 s = .next (s.latch .opRange) := by
  rw [exec_be16, execBe16_eq, if_neg (by omega)]

theorem exec_be16_inRange (h0 : s.a0.toNat ≤ 0xFF) (h1 : s.a1.toNat ≤ 0xFF) :
    exec .be16 s = .next (s.setR0 (be16 (asU8 s.a0) (asU8 s.a1))) := by
  rw [exec_be16, execBe16_eq, if_pos ⟨h0, h1⟩]

theorem exec_scale_opRange (h : 9 < s.a1.toNat) : exec .scale s = .next (s.latch .opRange) := by
  rw [exec_scale, execScale_eq, if_neg (by omega)]

theorem exec_scale_inRange (h : s.a1.toNat ≤ 9) :
    exec .scale s = .next ((s.setR0 (scaled s.a0 s.a1.toNat).1).setR1 (scaled s.a0 s.a1.toNat).2) := by
  rw [exec_scale, execScale_eq, if_pos h]

theorem exec_dword_opRange (h : 0xFFFF < s.a0.toNat ∨ 0xFFFF < s.a1.toNat) :
    exec .dword s = .next (s.latch .opRange) := by
  rw [exec_dword, execDword_eq, if_neg (by omega)]

theorem exec_dword_inRange (h0 : s.a0.toNat ≤ 0xFFFF) (h1 : s.a1.toNat ≤ 0xFFFF) :
    exec .dword s = .next (s.setR0 (dword (asU16 s.a0) (asU16 s.a1))) := by
  rw [exec_dword, execDword_eq, if_pos ⟨h0, h1⟩]

theorem exec_kwh_opRange (h : 0xFFFF < s.a0.toNat ∨ 0xFFFF < s.a1.toNat) :
    exec .kwh s = .next (s.latch .opRange) := by
  rw [exec_kwh, execKwh_eq, if_neg (by omega)]

theorem exec_kwh_inRange (h0 : s.a0.toNat ≤ 0xFFFF) (h1 : s.a1.toNat ≤ 0xFFFF) :
    exec .kwh s = .next (s.setR0 (kwh (asU16 s.a0) (asU16 s.a1))) := by
  rw [exec_kwh, execKwh_eq, if_pos ⟨h0, h1⟩]

theorem exec_ldw_bufRange (h : s.outcome = .success) (hk : s.plen.toNat ≤ 2 * s.a0.toNat + 1) :
    exec .ldw s = .next (s.latch .bufRange) := by
  rw [exec_ldw, execLdw_eq, if_pos h, if_neg (by omega)]

theorem exec_ldw_inRange (h : s.outcome = .success) (hk : 2 * s.a0.toNat + 1 < s.plen.toNat) :
    exec .ldw s =
      .next (s.setR0 (be16 (s.byteAt .pay (2 * s.a0.toNat)) (s.byteAt .pay (2 * s.a0.toNat + 1)))) := by
  rw [exec_ldw, execLdw_eq, if_pos h, if_pos hk]

end

/-! ### The Field Decoder's obligations -/

/-- Settles O32: the operands are narrowed only when in range, so no bit of them is lost. -/
theorem be16CombinesTwoBytes : Obligations.Be16CombinesTwoBytes := by
  unfold Obligations.Be16CombinesTwoBytes
  exact ⟨decode_iff.mpr rfl, fun s => ⟨exec_be16_opRange,
    fun h0 h1 => ⟨_, be16_asU8_toNat h0 h1, exec_be16_inRange h0 h1⟩⟩⟩

/-- Settles O33: the table's entry at A1 is the power of ten. -/
theorem scaleDividesByThePowerOfTen : Obligations.ScaleDividesByThePowerOfTen := by
  unfold Obligations.ScaleDividesByThePowerOfTen
  exact ⟨decode_iff.mpr rfl, fun s => ⟨exec_scale_opRange,
    fun h => ⟨_, _, scaled_fst_toNat s.a0 h, scaled_snd_toNat s.a0 h, exec_scale_inRange h⟩⟩⟩

/-- Settles O34: the sum of two checked words stays below 2^32, so the carry is kept. -/
theorem dwordShiftsByEightAndAdds : Obligations.DwordShiftsByEightAndAdds := by
  unfold Obligations.DwordShiftsByEightAndAdds
  exact ⟨decode_iff.mpr rfl, fun s => ⟨exec_dword_opRange,
    fun h0 h1 => ⟨_, dword_asU16_toNat h0 h1, dword_toNat_le _ _, exec_dword_inRange h0 h1⟩⟩⟩

/-- Settles O35: as for DWORD, product and sum stay below 2^32. -/
theorem kwhMultipliesByAThousandAndAdds : Obligations.KwhMultipliesByAThousandAndAdds := by
  unfold Obligations.KwhMultipliesByAThousandAndAdds
  exact ⟨decode_iff.mpr rfl, fun s => ⟨exec_kwh_opRange,
    fun h0 h1 => ⟨_, kwh_asU16_toNat h0 h1, kwh_toNat_le _ _, exec_kwh_inRange h0 h1⟩⟩⟩

/-- Settles O36: NOPAYLOAD, then BUFRANGE, then the two payload bytes as one word. -/
theorem ldwLoadsAWholePayloadWord : Obligations.LdwLoadsAWholePayloadWord := by
  unfold Obligations.LdwLoadsAWholePayloadWord
  exact ⟨decode_iff.mpr rfl, fun s => ⟨exec_ldw_noPayload, exec_ldw_bufRange,
    fun h hk => ⟨_, be16_toNat _ _, exec_ldw_inRange h hk⟩⟩⟩

end Sys2Proof.Machine

namespace Sys2Proof.Machine

/-- Word 0 is NOP's, and it changes nothing whether it executes or is dropped (R190). -/
theorem issue_zero (s : State) : issue 0x00000000 s = .next s := by
  by_cases herr : s.err = none
  · exact (issue_encode herr .nop).trans (exec_nop s)
  · rw [issue_of_err herr, if_neg (by decide)]

/-- Settles O17: NOP executed and NOP dropped are the same. -/
theorem nopChangesNothing : Obligations.NopChangesNothing := by
  unfold Obligations.NopChangesNothing
  exact ⟨decode_iff.mpr rfl, fun s => ⟨exec_nop s, issue_zero s⟩⟩

/-! ### A latched fault under the port's transactions -/

/-- A faulted state is its fault latched over the state without it. -/
theorem State.latch_withoutErr {s : State} {c : CommandFault} (herr : s.err = some c) :
    State.latch { s with err := none } c = s := by
  rw [State.latch, ← herr]

section
variable {s u : State} (c : CommandFault)

theorem State.answer_latch (r : Reply) : (s.latch c).answer r = (s.answer r).latch c := rfl

/-- Of the registers only STATUS shows the fault (R55). -/
theorem State.readReg_latch {r : RegName} (hr : r ≠ .status) : (s.latch c).readReg r = s.readReg r := by
  cases r with
  | status => exact absurd rfl hr
  | _ => rfl

theorem State.hostByte_latch (b : Buf) (i : Nat) : (s.latch c).hostByte b i = s.hostByte b i := by
  cases b <;> simp [State.hostByte]

/-- Of the register writes only that of CMD looks at the fault (R56, R192). -/
theorem writeReg_latch {r : RegName} {w : Word} (hr : r ≠ .cmd) (h : writeReg r w s = .next u) :
    writeReg r w (s.latch c) = .next (u.latch c) := by
  cases r with
  | cmd => exact absurd rfl hr
  | _ =>
    cases h
    rfl

theorem writeByte_latch {b : Buf} {i : Nat} {v : Byte} (hi : i < b.size) (h : writeByte b i v s = .next u) :
    writeByte b i v (s.latch c) = .next (u.latch c) := by
  cases b with
  | rxb =>
    rw [writeByte_rxb s v hi] at h
    cases h
    exact writeByte_rxb (s.latch c) v hi
  | txf | pay =>
    cases h
    rfl

theorem unmappedAccess_latch {a : Access} (h : unmappedAccess a s = .next u) :
    unmappedAccess a (s.latch c) = .next (u.latch c) := by
  cases a with
  | r8 | r32 | w8 | w32 =>
    cases h
    rfl
  | r16 | w16 | reset => cases h

/-- Every transaction but a CMD write, a STATUS read and the reset input goes past a latched fault (R192). -/
theorem perform_latch {t : Transaction} (hcmd : ∀ w, t ≠ .regWrite .cmd w) (hstatus : t ≠ .regRead .status)
    (hreset : t ≠ .reset) (h : perform t s = .next u) : perform t (s.latch c) = .next (u.latch c) := by
  cases t with
  | reset => exact absurd rfl hreset
  | regRead r =>
    have hr : r ≠ .status := fun hr => hstatus (by rw [hr])
    cases h
    rw [perform, State.readReg_latch c hr, State.answer_latch]
  | regWrite r w => exact writeReg_latch c (fun hr => hcmd w (by rw [hr])) h
  | bufRead b i =>
    by_cases hi : i < b.size
    · rw [perform_bufRead s hi] at h
      cases h
      rw [perform_bufRead _ hi, State.hostByte_latch, State.answer_latch]
    · simp [perform, hi] at h
  | bufWrite b i v =>
    by_cases hi : i < b.size
    · rw [perform_bufWrite s v hi] at h
      rw [perform_bufWrite _ v hi]
      exact writeByte_latch c hi h
    · simp [perform, hi] at h
  | unmapped a => exact unmappedAccess_latch c h

end

/-- Settles O41: commands are dropped, and every other transaction goes past the latch. -/
theorem latchedFaultDropsOnlyCommands : Obligations.LatchedFaultDropsOnlyCommands := by
  unfold Obligations.LatchedFaultDropsOnlyCommands
  intro s c herr
  refine ⟨fun w hw => ?_, fun t u hcmd hstatus hreset h => ?_, rfl, rfl⟩
  · exact (issue_of_err (by simp [herr])).trans (if_neg hw)
  · have hlatched := perform_latch c hcmd hstatus hreset h
    rwa [State.latch_withoutErr herr] at hlatched

end Sys2Proof.Machine

namespace Sys2Proof.Machine.HostContext

/-! ### The read loop on a silent channel -/

section
variable {expected : Nat} (threshold : Nat) {buffer : List Byte} (hshort : buffer.length < expected)
include hshort

/-- A loop that still waits for bytes gives no result where the answers end. -/
theorem readLoop_nil (fails iterations : Nat) :
    readLoop expected threshold [] buffer fails iterations = none := by
  rw [readLoop, if_neg (Nat.not_le.mpr hshort)]

/-- One iteration without a byte: the failure that reaches the threshold is a timeout, any other is counted (R204). -/
theorem readLoop_none_cons (rest : List (Option Byte)) (fails iterations : Nat) :
    readLoop expected threshold (none :: rest) buffer fails iterations =
      if threshold ≤ fails + 1 then some ⟨buffer, some (.timeout buffer.length), iterations + 1⟩
      else readLoop expected threshold rest buffer (fails + 1) (iterations + 1) := by
  rw [readLoop, if_neg (Nat.not_le.mpr hshort)]

/-- From `fails` failures in a row, silence ends the loop after `threshold - fails` more iterations and not before
(R204): the failures counted and the reads left always have the same sum. -/
theorem readLoop_replicate_none {threshold : Nat} (n : Nat) {fails : Nat} (iterations : Nat)
    (hfails : fails < threshold) :
    readLoop expected threshold (List.replicate n none) buffer fails iterations =
      if threshold ≤ fails + n then some ⟨buffer, some (.timeout buffer.length), iterations + (threshold - fails)⟩
      else none := by
  induction n generalizing fails iterations with
  | zero => rw [List.replicate_zero, readLoop_nil threshold hshort, if_neg (by omega)]
  | succ n ih =>
    rw [List.replicate_succ, readLoop_none_cons threshold hshort]
    by_cases hlast : threshold ≤ fails + 1
    · have hone : threshold - fails = 1 := by omega
      rw [if_pos hlast, if_pos (by omega), hone]
    · have hmore : iterations + 1 + (threshold - (fails + 1)) = iterations + (threshold - fails) := by omega
      rw [if_neg hlast, ih _ (by omega), hmore, Nat.add_right_comm, Nat.add_assoc]

end

/-- Settles O49: the read loop starts with no byte and no failure, so silence lasts it the whole threshold. -/
theorem silentChannelTimesOutAtTheThreshold : Obligations.SilentChannelTimesOutAtTheThreshold := by
  unfold Obligations.SilentChannelTimesOutAtTheThreshold
  intro expected threshold n hexpected hthreshold
  have hloop := readLoop_replicate_none (buffer := []) hexpected n 0 hthreshold
  simpa [exchangeRead] using hloop

end Sys2Proof.Machine.HostContext

namespace Sys2Proof.Machine

/-! ### Command faults and their causes -/

section
open Sys2Proof.Slice0
variable {s t : State} {w : Word} {c : CommandFault}

/-- Each cause latches its fault and does nothing else (R245, R246). -/
theorem issue_of_faultCause (herr : s.err = none) (hcause : faultCause w s c) : issue w s = .next (s.latch c) := by
  have hissue := issue_encode herr
  cases c with
  | illCmd => exact issue_illegal herr hcause
  | opRange =>
    rcases hcause with ⟨rfl, h⟩ | ⟨rfl, h⟩ | ⟨rfl, h⟩ | ⟨rfl, h⟩ | ⟨rfl, h⟩ | ⟨rfl | rfl, h⟩
    · exact (hissue .cksum).trans (exec_cksum_opRange h)
    · exact (hissue .build).trans (exec_build_outOfRange h)
    · exact (hissue .parse).trans (exec_parse_opRange h)
    · exact (hissue .be16).trans (exec_be16_opRange h)
    · exact (hissue .scale).trans (exec_scale_opRange h)
    · exact (hissue .dword).trans (exec_dword_opRange h)
    · exact (hissue .kwh).trans (exec_kwh_opRange h)
  | bufRange =>
    rcases hcause with ⟨rfl, h0, h⟩ | ⟨rfl, h1, h⟩ | ⟨rfl, h2, h⟩ | ⟨rfl, h0, h⟩ | ⟨rfl, hsuccess, h⟩
    · exact (hissue .cksum).trans (exec_cksum_bufRange (selectBuf_some_iff.mpr (.inl ⟨h0, rfl⟩)) fun _ => h)
    · refine (hissue .cksum).trans (exec_cksum_bufRange (selectBuf_some_iff.mpr (.inr (.inl ⟨h1, rfl⟩))) ?_)
      exact fun hrx => h.resolve_left (Nat.not_lt.mpr (hrx rfl))
    · exact (hissue .cksum).trans (exec_cksum_bufRange (selectBuf_some_iff.mpr (.inr (.inr ⟨h2, rfl⟩))) fun _ => h)
    · exact (hissue .parse).trans (exec_parse_bufRange h0 h)
    · exact (hissue .ldw).trans (exec_ldw_bufRange hsuccess h)
  | noPayload =>
    obtain ⟨rfl, h⟩ := hcause
    exact (hissue .ldw).trans (exec_ldw_noPayload h)

/-- A command that either completes without a fault or latches `d` holds a fault only by `d`, from the failed check. -/
theorem eq_of_next_ite_latch {o : Host.Outcome State Fault Refusal} {p : Prop} [Decidable p] {u : State}
    {d : CommandFault} (heq : o = .next (if p then u else s.latch d)) (h : o = .next t) (hc : t.err = some c)
    (hu : u.err = none) : ¬p ∧ c = d := by
  cases h.symm.trans heq
  split_ifs at hc with hp
  · cases hu.symm.trans hc
  · cases hc
    exact ⟨hp, rfl⟩

/-- CKSUM faults only on its select or on its range (R115). -/
theorem faultCause_of_exec_cksum (herr : s.err = none) (h : exec .cksum s = .next t) (hc : t.err = some c) :
    faultCause (encode .cksum) s c := by
  have heq := execCksum_eq s
  cases hsel : selectBuf s.a0 with
  | none =>
    rw [hsel] at heq
    cases h.symm.trans heq
    cases hc
    exact .inl ⟨rfl, selectBuf_none_iff.mp hsel⟩
  | some b =>
    rw [hsel] at heq
    obtain ⟨hrange, rfl⟩ := eq_of_next_ite_latch heq h hc herr
    rcases selectBuf_some_iff.mp hsel with ⟨h0, rfl⟩ | ⟨h1, rfl⟩ | ⟨h2, rfl⟩
    · exact .inl ⟨rfl, h0, by simpa [State.limit] using hrange⟩
    · exact .inr (.inl ⟨rfl, h1, by simpa [State.limit, or_iff_not_imp_left] using hrange⟩)
    · exact .inr (.inr (.inl ⟨rfl, h2, by simpa [State.limit] using hrange⟩))

/-- PARSE faults only on A0 or RXLEN; a failed validation is no fault (R141). -/
theorem faultCause_of_exec_parse (herr : s.err = none) (h : exec .parse s = .next t) (hc : t.err = some c) :
    faultCause (encode .parse) s c := by
  rcases execParse_cases s h with ⟨h0, rfl⟩ | ⟨h0, h1, rfl⟩ | ⟨-, -, k, e, a, l, crc, -, rfl⟩ |
    ⟨-, -, p, crc, r, -, -, rfl⟩
  · cases hc
    exact .inr (.inr (.inl ⟨rfl, h0⟩))
  · cases hc
    exact .inr (.inr (.inr (.inl ⟨rfl, h0, h1⟩)))
  · have hkept : (s.setCrcIf crc).err = s.err := by cases crc <;> rfl
    cases (hkept.trans herr).symm.trans hc
  · cases herr.symm.trans hc

/-- LDW faults on a missing payload, and then on a word past it (R175). -/
theorem faultCause_of_exec_ldw (herr : s.err = none) (h : exec .ldw s = .next t) (hc : t.err = some c) :
    faultCause (encode .ldw) s c := by
  have heq := execLdw_eq s
  by_cases hsuccess : s.outcome = .success
  · rw [if_pos hsuccess] at heq
    obtain ⟨hk, rfl⟩ := eq_of_next_ite_latch heq h hc herr
    exact .inr (.inr (.inr (.inr ⟨rfl, hsuccess, Nat.not_lt.mp hk⟩)))
  · cases h.symm.trans (exec_ldw_noPayload hsuccess)
    cases hc
    exact ⟨rfl, hsuccess⟩

/-- No command latches a fault without its cause (R245). -/
theorem faultCause_of_exec {i : Instr} (herr : s.err = none) (h : exec i s = .next t) (hc : t.err = some c) :
    faultCause (encode i) s c := by
  cases i with
  | nop =>
    cases h
    cases herr.symm.trans hc
  | rst =>
    cases h
    cases hc
  | cksum => exact faultCause_of_exec_cksum herr h hc
  | parse => exact faultCause_of_exec_parse herr h hc
  | ldw => exact faultCause_of_exec_ldw herr h hc
  | build =>
    obtain ⟨hrange, rfl⟩ := eq_of_next_ite_latch (execBuild_eq s) h hc herr
    exact .inr (.inl ⟨rfl, by omega⟩)
  | be16 =>
    obtain ⟨hrange, rfl⟩ := eq_of_next_ite_latch (execBe16_eq s) h hc herr
    exact .inr (.inr (.inr (.inl ⟨rfl, by omega⟩)))
  | scale =>
    obtain ⟨hrange, rfl⟩ := eq_of_next_ite_latch (execScale_eq s) h hc herr
    exact .inr (.inr (.inr (.inr (.inl ⟨rfl, by omega⟩))))
  | dword =>
    obtain ⟨hrange, rfl⟩ := eq_of_next_ite_latch (execDword_eq s) h hc herr
    exact .inr (.inr (.inr (.inr (.inr ⟨.inl rfl, by omega⟩))))
  | kwh =>
    obtain ⟨hrange, rfl⟩ := eq_of_next_ite_latch (execKwh_eq s) h hc herr
    exact .inr (.inr (.inr (.inr (.inr ⟨.inr rfl, by omega⟩))))

/-- No CMD write latches a fault without its cause: an illegal word, or the cause of the command it executes. -/
theorem faultCause_of_issue (herr : s.err = none) (h : issue w s = .next t) (hc : t.err = some c) :
    faultCause w s c := by
  rcases issue_cases h with ⟨hfault, -⟩ | ⟨hfault, -⟩ | ⟨-, i, rfl, hx⟩ | ⟨-, hillegal, rfl⟩
  · exact absurd herr hfault
  · exact absurd herr hfault
  · exact faultCause_of_exec herr hx hc
  · cases hc
    exact (decode_error_iff w).mp hillegal

end

/-- Settles O38: a latched fault has a cause, and that cause latches it over the state before. -/
theorem commandFaultsArePrecise : Obligations.CommandFaultsArePrecise := by
  unfold Obligations.CommandFaultsArePrecise
  intro w s t c herr h hc
  have hlatched := issue_of_faultCause herr (faultCause_of_issue herr h hc)
  cases h.symm.trans hlatched
  rfl

/-- Settles O39: no fault without its cause, and no cause without its fault. -/
theorem faultsAreLatchedExactlyForTheirCauses : Obligations.FaultsAreLatchedExactlyForTheirCauses := by
  unfold Obligations.FaultsAreLatchedExactlyForTheirCauses
  intro w s c herr
  exact ⟨fun ⟨_, h, hc⟩ => faultCause_of_issue herr h hc, fun hcause => ⟨_, issue_of_faultCause herr hcause, rfl⟩⟩

end Sys2Proof.Machine

namespace Sys2Proof.Machine
open Sys2Proof.Slice0

/-! ### The checksum of the reset template (R272) -/

/-- The register over the covered bytes of the request for address, start and count 0. -/
theorem crcRun_requestBody_zero : crcRun crcInit (requestBody 0 0 0) = 0x1B44 := by decide +kernel

/-- That request holds the register's byte swap, high byte first (R61, R131). -/
theorem buildRequest_zero :
    buildRequest 0 0 0 = [0x0A, 0x00, 0x03, 0x00, 0x00, 0x00, 0x00, 0x44, 0x1B, 0x0D] := by
  rw [buildRequest_eq, crcRun_requestBody_zero]
  rfl

/-- While TXF is the reset template, its bytes 1 to 6 are those covered bytes (R39, R131). -/
theorem registerOver_template {s : State} (htxf : s.txf = []) : registerOver s .txf 1 6 = 0x1B44 := by
  have hbytes : s.byteAt .txf = resetByte .txf := by
    funext i
    rw [State.byteAt, State.buf_of_txf, htxf, memGet]
  have hbody : bytesFrom (resetByte .txf) 1 6 = requestBody 0 0 0 := rfl
  rw [← crcRun_bytesFrom, hbytes, hbody, crcRun_requestBody_zero]

/-! ### The commands right after reset (R272) -/

/-- With no byte received, PARSE finds the start byte absent (R136, R137). -/
theorem exec_parse_reset :
    exec .parse State.reset = .next (failed State.reset .invalidPrefix 1 0x000A 0x0100 false) := by
  have habsent : State.reset.receivedBytes = [] := rfl
  rw [exec_parse_inRange (by decide) (by decide), habsent, parseResponse_invalidPrefix (by simp),
    writeBack_fail_eq_failed]
  rfl

/-- CKSUM over those six bytes of TXF. -/
theorem exec_cksum_template {s : State} (h0 : s.a0 = 0) (h1 : s.a1 = 1) (h2 : s.a2 = 6) (htxf : s.txf = []) :
    exec .cksum s = .next { s with crc := 0x1B44, r0 := 0x0000441B } := by
  have hr : registerOver s .txf s.a1.toNat s.a2.toNat = 0x1B44 := by
    rw [h1, h2]
    exact registerOver_template htxf
  have hcksum := exec_cksum_inRange (s := s) (selectBuf_some_iff.mpr (.inl ⟨h0, rfl⟩)) nofun
    (by simp [h1, h2, State.limit, Config.txfSize])
  rw [hr] at hcksum
  exact hcksum

/-- In range BUILD leaves the request's ten bytes in TXF (R132). -/
theorem exec_build_inRange_bytes {s : State} (h0 : s.a0.toNat ≤ 0xFF) (h1 : s.a1.toNat ≤ 0xFFFF)
    (h2 : s.a2.toNat ≤ 0xFFFF) : ∃ t, exec .build s = .next t ∧
      bytesFrom (t.byteAt .txf) 0 10 = buildRequest (asU8 s.a0) (asU16 s.a1) (asU16 s.a2) := by
  refine ⟨_, exec_build_inRange h0 h1 h2, ?_⟩
  have hback := bytesFrom_memPutList (resetByte .txf) s.txf (buildRequest (asU8 s.a0) (asU16 s.a1) (asU16 s.a2))
  rw [length_buildRequest] at hback
  exact hback

/-- Settles O18: PARSE sees no byte, LDW and PAY see no payload, and CKSUM and BUILD sum the same six bytes. -/
theorem resetStateConsequences : Obligations.ResetStateConsequences := by
  unfold Obligations.ResetStateConsequences
  refine ⟨⟨_, exec_parse_reset, rfl, rfl⟩, exec_ldw_noPayload nofun,
    ⟨_, exec_cksum_template rfl rfl rfl rfl, rfl, rfl⟩, ?build, fun i hi => ?pay⟩
  case build =>
    obtain ⟨t, hbuild, hframe⟩ := exec_build_inRange_bytes (s := { State.reset with a0 := 0, a1 := 0, a2 := 0 })
      (by decide) (by decide) (by decide)
    have hzero : buildRequest (asU8 0) (asU16 0) (asU16 0) = _ := buildRequest_zero
    have hbyte {k : Nat} (hk : k < 10) := getD_bytesFrom (t.byteAt .txf) hk
    rw [hframe, hzero] at hbyte
    exact ⟨t, hbuild, (hbyte (by decide)).symm, (hbyte (by decide)).symm⟩
  case pay =>
    rw [perform_bufRead _ (b := .pay) hi, State.hostByte_pay_of_le _ (Nat.zero_le i)]
    rfl

end Sys2Proof.Machine
